-- ==== Sys2Proof/Config.lean ====
section
/-! DEFINITION. The two parameters the spec leaves open to an implementation (rule R5). They are fixed for the
life of the block and are no state (rule R24). Neither has a body: nothing can be proved of its value, so a
claim that holds here holds for both values (log entry 8). -/

namespace Sys2Proof

/-- What STOP_SCAN reports in Idle (rule R5, decision D15). -/
inductive StopWhenIdle where
  /-- `Fault(OperationRequiresScanning)`. -/
  | reject
  /-- `Ok(unit)`, nothing sent. -/
  | noOp
  deriving DecidableEq, Repr, Inhabited

/-- The parameter `STOP_WHEN_IDLE` (rule R5). -/
opaque Config.stopWhenIdle : StopWhenIdle

/-- The parameter `HAS_TIMEOUT`: whether firmware may end a wait with an `RxTimeout` event (rule R5, decision D24). -/
opaque Config.hasTimeout : Bool

end Sys2Proof
end

