-- ==== Sys2Proof/Word.lean ====
section
/-! DEFINITION. The unit of data of the block: the byte (rule R10), and the 16-bit word that only the distance
of a sample needs (rules R20, R85). -/

namespace Sys2Proof

/-- A byte: an unsigned integer 0 to 255, bit 7 the most significant (rule R10). -/
abbrev Byte := BitVec 8

/-- A finite sequence of bytes, index 0 first on the wire (rules R10, R26). -/
abbrev Bytes := List Byte

/-- The width of `distance_mm` (rule R12). -/
abbrev Word16 := BitVec 16

end Sys2Proof
end

