-- ==== Sys2Proof/Machine/Types.lean ====
section
/-! DEFINITION. The types the rules use (rule R12), the request record of the OP port (rule R54), the RX event,
and the record of the RES port (rule R118). -/

namespace Sys2Proof.Machine

/-- `CommandId` (rule R12). -/
inductive CommandId where
  | startScan | stopScan | getDeviceInfo | selfTest | setOutputFreq | setFilter | setSerialBaud
  | setFormatOutputData | restoreFactorySettings
  deriving DecidableEq, Repr

/-- `SessionState`, the type of STATE (rules R12, R16). -/
inductive SessionState where
  | idle | scanning
  deriving DecidableEq, Repr

/-- `OutputFrequency` (rules R12, R46). -/
inductive OutputFrequency where
  | freq10Hz | freq100Hz | freq200Hz | freq500Hz | freq1000Hz | freq1800Hz
  deriving DecidableEq, Repr

/-- `FilterState` (rules R12, R47). -/
inductive FilterState where
  | off | on
  deriving DecidableEq, Repr

/-- `BaudRate`, the two enabled members (rules R12, R48). -/
inductive BaudRate where
  | baud230400 | baud460800
  deriving DecidableEq, Repr

/-- The ten transaction operations with their operands: what INFLIGHT can hold (rule R18). -/
inductive Transaction where
  | startScan
  | stopScan
  | getDeviceInfo
  | selfTest
  | setOutputFreq (f : OutputFrequency)
  | setFilter (x : FilterState)
  | setSerialBaud (b : BaudRate)
  | setFormatOutputData (v : Byte)
  | restoreFactorySettings
  | readSample
  deriving DecidableEq, Repr

/-- `Frame`, what `decode` returns (rule R12). -/
structure Frame where
  command : CommandId
  payload : Bytes
  checksum : Byte
  deriving DecidableEq, Repr

/-- `VersionInfo` (rule R12); the serial number is an unbounded natural number (rule R90, decision D28). -/
structure VersionInfo where
  model : Byte
  hardwareVersion : Byte
  firmwareMajor : Byte
  firmwareMinor : Byte
  serialNumber : Nat
  deriving DecidableEq, Repr

/-- `SelfTestOutcome` (rule R12). -/
structure SelfTestOutcome where
  passed : Bool
  errorCode : Byte
  rawData : Bytes
  deriving DecidableEq, Repr

/-- `DistanceSample` (rule R12). -/
structure DistanceSample where
  distanceMm : Word16
  intensity : Byte
  disturb : Byte
  deriving DecidableEq, Repr

/-- The typed faults of the spec: the closed list of rule R100. They are RESULTS, delivered on RES by the
operation that detected them; the machine goes on after each (rule R115). What stops the model is the separate
type `Fault` of State.lean. -/
inductive Failure where
  /-- Rule R101. -/
  | malformedFrame
  /-- Rule R102. -/
  | checksumMismatch (expected actual : Byte)
  /-- Rule R103. -/
  | noDataReceived
  /-- Rule R104. -/
  | operationNotAllowedWhileScanning
  /-- Rule R105. -/
  | operationRequiresScanning
  /-- Rule R106. -/
  | selfTestFailed (errorCode : Byte)
  /-- Rule R107. -/
  | configurationRejected (requested echoed : Byte)
  /-- Rule R108. -/
  | deviceUnresponsive
  /-- Rule R109. -/
  | illegalRequest
  deriving DecidableEq, Repr

/-- The value of an `Ok` (rule R12). -/
inductive Value where
  | unit
  | bytes (bs : Bytes)
  | frame (f : Frame)
  | version (v : VersionInfo)
  | selfTest (o : SelfTestOutcome)
  | sample (d : DistanceSample)
  deriving DecidableEq, Repr

/-- `Result`, what crosses the RES port (rules R8, R12). -/
inductive Result where
  | ok (v : Value)
  | fault (f : Failure)
  deriving DecidableEq, Repr

/-- `RxEvent`, what crosses the RX port (rules R8, R12). -/
inductive RxEvent where
  | burst (raw : Bytes)
  | timeout
  deriving DecidableEq, Repr

/-- The request record of the OP port (rule R54). -/
structure Request where
  opsel : Byte
  arg : Byte
  data : Bytes
  deriving DecidableEq, Repr

/-- What the host can present to the block: a request at OP, an RX event, or RESET (rules R8, R76). -/
inductive HostEvent where
  | request (r : Request)
  | rx (ev : RxEvent)
  | reset
  deriving DecidableEq, Repr

/-- The events of the block: the complete list of rule R76, with what each is about. -/
inductive Event where
  /-- ISSUE of a transaction operation (rule R70). -/
  | issue (t : Transaction)
  /-- COMPLETE (rule R71). -/
  | complete (t : Transaction) (ev : RxEvent)
  /-- ENCODE (rule R60). -/
  | encode (arg : Byte) (data : Bytes)
  /-- DECODE (rule R62). -/
  | decode (data : Bytes)
  /-- TEARDOWN (rule R86). -/
  | teardown
  /-- Refusal of an ill-formed request (rule R55). -/
  | refusal
  /-- RESET (rule R123). -/
  | reset
  deriving DecidableEq, Repr

/-- The outcome of the guard (rule R68). -/
inductive Guard where
  | pass
  | reject (f : Failure)
  | skip
  deriving DecidableEq, Repr

/-- The record of the RES port (rule R118): a 4-bit status, two information bytes, and the operation's value,
absent unless the status is 0. -/
structure ResRecord where
  status : BitVec 4
  info0 : Byte
  info1 : Byte
  value : Option Value
  deriving DecidableEq, Repr

end Sys2Proof.Machine
end

