-- ==== Sys2Proof/Machine/Catalog.lean ====
section
/-! DEFINITION. The catalog: the constant table of opcodes and configuration bytes (rules R44 to R48), the
request payloads (rule R49) and the entry of each transaction operation (rule R67). It is read-only (rule R35). -/

namespace Sys2Proof.Machine

/-- Rule R44. -/
def opcode : CommandId → Byte
  | .startScan => 0x60
  | .stopScan => 0x61
  | .getDeviceInfo => 0x62
  | .selfTest => 0x63
  | .setOutputFreq => 0x64
  | .setFilter => 0x65
  | .setSerialBaud => 0x66
  | .setFormatOutputData => 0x67
  | .restoreFactorySettings => 0x68

/-- The nine commands in the order of rule R7. -/
def allCommands : List CommandId :=
  [.startScan, .stopScan, .getDeviceInfo, .selfTest, .setOutputFreq, .setFilter, .setSerialBaud,
    .setFormatOutputData, .restoreFactorySettings]

/-- The reverse lookup of rule R45: the whole byte is compared (rule R51). -/
def cmdOfOpcode (b : Byte) : Option CommandId :=
  allCommands.find? (fun c => opcode c == b)

/-- The name of a command as the source writes its identifier (rule R45, decision D31). -/
def commandName : CommandId → String
  | .startScan => "StartScan"
  | .stopScan => "StopScan"
  | .getDeviceInfo => "GetDeviceInfo"
  | .selfTest => "SelfTest"
  | .setOutputFreq => "SetOutputFreq"
  | .setFilter => "SetFilter"
  | .setSerialBaud => "SetSerialBaud"
  | .setFormatOutputData => "SetFormatOutputData"
  | .restoreFactorySettings => "RestoreFactorySettings"

/-- `cmd_name` (rule R45): for diagnostics only, no rule reads it. -/
def cmdName (b : Byte) : Option String := (cmdOfOpcode b).map commandName

/-- Rule R46. -/
def freqByte : OutputFrequency → Byte
  | .freq10Hz => 0x00
  | .freq100Hz => 0x01
  | .freq200Hz => 0x02
  | .freq500Hz => 0x03
  | .freq1000Hz => 0x04
  | .freq1800Hz => 0x05

/-- The member with a given frequency byte; bytes 0x06 to 0xFF have none (rule R46). -/
def freqOfByte (b : Byte) : Option OutputFrequency :=
  [OutputFrequency.freq10Hz, .freq100Hz, .freq200Hz, .freq500Hz, .freq1000Hz, .freq1800Hz].find?
    (fun f => freqByte f == b)

/-- The rate of a frequency in Hz: its meaning to the device; no rule computes with it (rule R46). -/
def freqHz : OutputFrequency → Nat
  | .freq10Hz => 10
  | .freq100Hz => 100
  | .freq200Hz => 200
  | .freq500Hz => 500
  | .freq1000Hz => 1000
  | .freq1800Hz => 1800

/-- Rule R47. -/
def filterByte : FilterState → Byte
  | .off => 0x00
  | .on => 0x01

/-- The member with a given filter byte; bytes 0x02 to 0xFF have none (rule R47). -/
def filterOfByte (b : Byte) : Option FilterState :=
  [FilterState.off, .on].find? (fun x => filterByte x == b)

/-- Rule R48. -/
def baudByte : BaudRate → Byte
  | .baud230400 => 0x00
  | .baud460800 => 0x01

/-- The enabled member with a given baud byte; bytes 0x02 to 0xFF are reserved (rule R48). -/
def baudOfByte (b : Byte) : Option BaudRate :=
  [BaudRate.baud230400, .baud460800].find? (fun x => baudByte x == b)

/-- The baud rate a member stands for (rule R48): the transport's, no rule computes with it. -/
def baudBitsPerSecond : BaudRate → Nat
  | .baud230400 => 230400
  | .baud460800 => 460800

/-- `cmd(op)`: the command whose frame is sent; none for READ_SAMPLE (rule R67). -/
def cmdOf : Transaction → Option CommandId
  | .startScan => some .startScan
  | .stopScan => some .stopScan
  | .getDeviceInfo => some .getDeviceInfo
  | .selfTest => some .selfTest
  | .setOutputFreq _ => some .setOutputFreq
  | .setFilter _ => some .setFilter
  | .setSerialBaud _ => some .setSerialBaud
  | .setFormatOutputData _ => some .setFormatOutputData
  | .restoreFactorySettings => some .restoreFactorySettings
  | .readSample => none

/-- `req_payload(op)` (rule R49): a one-byte operand goes into the payload unchanged. READ_SAMPLE sends nothing,
so its entry is never read. -/
def reqPayload : Transaction → Bytes
  | .startScan => []
  | .stopScan => []
  | .getDeviceInfo => []
  | .selfTest => []
  | .setOutputFreq f => [freqByte f]
  | .setFilter x => [filterByte x]
  | .setSerialBaud b => [baudByte b]
  | .setFormatOutputData v => [v]
  | .restoreFactorySettings => []
  | .readSample => []

/-- The state the guard requires; nothing for READ_SAMPLE (rules R67, R68). -/
def requiredState : Transaction → Option SessionState
  | .startScan => some .idle
  | .stopScan => some .scanning
  | .getDeviceInfo => some .idle
  | .selfTest => some .idle
  | .setOutputFreq _ => some .idle
  | .setFilter _ => some .idle
  | .setSerialBaud _ => some .idle
  | .setFormatOutputData _ => some .idle
  | .restoreFactorySettings => some .idle
  | .readSample => none

/-- `next_state`: STATE after a SUCCESSFUL transaction (rule R69). -/
def nextState : Transaction → SessionState → SessionState
  | .startScan, _ => .scanning
  | .stopScan, _ => .idle
  | .getDeviceInfo, st => st
  | .selfTest, st => st
  | .setOutputFreq _, st => st
  | .setFilter _, st => st
  | .setSerialBaud _, st => st
  | .setFormatOutputData _, st => st
  | .restoreFactorySettings, st => st
  | .readSample, st => st

/-- `guard` (rule R68). It reads STATE only; the open point, STOP_SCAN in Idle, is the parameter `p`
(rule R5, decision D15). -/
def guardOf (p : StopWhenIdle) : Transaction → SessionState → Guard
  | .readSample, _ => .pass
  | .stopScan, .scanning => .pass
  | .stopScan, .idle =>
    match p with
    | .reject => .reject .operationRequiresScanning
    | .noOp => .skip
  | .startScan, st => idleGuard st
  | .getDeviceInfo, st => idleGuard st
  | .selfTest, st => idleGuard st
  | .setOutputFreq _, st => idleGuard st
  | .setFilter _, st => idleGuard st
  | .setSerialBaud _, st => idleGuard st
  | .setFormatOutputData _, st => idleGuard st
  | .restoreFactorySettings, st => idleGuard st
where
  /-- The guard of every command that requires Idle. -/
  idleGuard : SessionState → Guard
    | .idle => .pass
    | .scanning => .reject .operationNotAllowedWhileScanning

end Sys2Proof.Machine
end

