-- ==== Sys2Proof/Machine/Codec.lean ====
section
/-! DEFINITION. The frame codec: `checksum`, `encode` and `decode` (rules R57, R59, R61). All three are total
functions of their arguments; none looks at the state. -/

namespace Sys2Proof.Machine

/-- The header bytes of every frame (rule R38). -/
def hdr0 : Byte := 0xAA
/-- The second header byte (rule R38). -/
def hdr1 : Byte := 0x55

/-- `sum(bs)`: the sum as a natural number, with no wrap-around (rule R10). -/
def byteSum : Bytes → Nat
  | [] => 0
  | b :: bs => b.toNat + byteSum bs

/-- `lsb(n)` (rule R10). -/
def lsb (n : Nat) : Byte := BitVec.ofNat 8 n

/-- `checksum` (rule R57). -/
def checksum (bs : Bytes) : Byte := lsb (byteSum bs)

/-- `s[i]`; every use below has `i` in range (rule R10). -/
def byteAt (bs : Bytes) (i : Nat) : Byte := bs.getD i 0

/-- `s[i..j)`, half-open (rules R10, R64). -/
def slice (bs : Bytes) (i j : Nat) : Bytes := (bs.drop i).take (j - i)

/-- The bytes of a frame before its checksum, in wire order (rules R26, R59). -/
def frameBody (c : CommandId) (payload : Bytes) : Bytes :=
  [hdr0, hdr1, opcode c, lsb payload.length] ++ payload

/-- `encode` (rule R59). It is defined for `len(payload) <= 255`; every caller has checked that (rule R55). -/
def encodeFrame (c : CommandId) (payload : Bytes) : Bytes :=
  frameBody c payload ++ [checksum (frameBody c payload)]

/-- `decode` (rule R61), its tests in the rule's order: length, header, exact length, checksum, opcode. -/
def decodeFrame (raw : Bytes) : Except Failure Frame :=
  let n := raw.length
  if n < 5 then .error .malformedFrame
  else if byteAt raw 0 ≠ hdr0 ∨ byteAt raw 1 ≠ hdr1 then .error .malformedFrame
  else if n ≠ 5 + (byteAt raw 3).toNat then .error .malformedFrame
  else
    let expected := checksum (slice raw 0 (n - 1))
    let actual := byteAt raw (n - 1)
    if expected ≠ actual then .error (.checksumMismatch expected actual)
    else
      match cmdOfOpcode (byteAt raw 2) with
      | none => .error .malformedFrame
      | some c => .ok ⟨c, slice raw 4 (4 + (byteAt raw 3).toNat), actual⟩

end Sys2Proof.Machine
end

