-- ==== Sys2Proof/Syntax.lean ====
section
/-! DEFINITION. The thirteen operations of rule R7, one constructor for each row of the opcode table.
An operand is the byte or the byte sequence that the request record of rule R54 carries for it: the operand
forms that rule R55 calls ill-formed can then be written down, the check of WellFormed.lean refuses them, and
their meaning is the fault the spec gives them (`IllegalRequest`, rules R55, R109, R110; log entry 9). -/

namespace Sys2Proof

/-- An operation the host presents (rule R7), with its operands (rule R54). -/
inductive Instr where
  /-- START_SCAN (rule R82). -/
  | startScan
  /-- STOP_SCAN (rule R83). -/
  | stopScan
  /-- GET_DEVICE_INFO (rule R88). -/
  | getDeviceInfo
  /-- SELF_TEST (rule R91). -/
  | selfTest
  /-- SET_OUTPUT_FREQ; `arg` is the frequency byte (rules R46, R94). -/
  | setOutputFreq (arg : Byte)
  /-- SET_FILTER; `arg` is the filter byte (rules R47, R95). -/
  | setFilter (arg : Byte)
  /-- SET_SERIAL_BAUD; `arg` is the baud byte (rules R48, R96). -/
  | setSerialBaud (arg : Byte)
  /-- SET_FORMAT_OUTPUT_DATA; `v` is any byte (rule R97). -/
  | setFormatOutputData (v : Byte)
  /-- RESTORE_FACTORY_SETTINGS (rule R98). -/
  | restoreFactorySettings
  /-- ENCODE; `arg` is the opcode byte of the command, `data` the payload (rule R60). -/
  | encode (arg : Byte) (data : Bytes)
  /-- DECODE; `data` is the byte sequence to decode (rule R62). -/
  | decode (data : Bytes)
  /-- READ_SAMPLE (rule R84). -/
  | readSample
  /-- TEARDOWN (rule R86). -/
  | teardown
  deriving DecidableEq, Repr

end Sys2Proof
end

