-- ==== Sys2Proof/WellFormed.lean ====
section
/-! DEFINITION. Which operations are well-formed: exactly those whose request rule R55 does not call
ill-formed. (A reserved OPSEL names no operation at all, so it has no term here: Decode.lean rejects it.) -/

namespace Sys2Proof

/-- The opcode bytes assigned to a command: 0x60 to 0x68 (rule R51). -/
def isOpcodeByte (b : Byte) : Bool := 0x60#8 ≤ b && b ≤ 0x68#8

/-- Rule R55, one check for each of its clauses that concerns an operand. -/
def wellFormed : Instr → Bool
  | .startScan => true
  | .stopScan => true
  | .getDeviceInfo => true
  | .selfTest => true
  | .setOutputFreq arg => arg ≤ 0x05#8
  | .setFilter arg => arg ≤ 0x01#8
  | .setSerialBaud arg => arg ≤ 0x01#8
  | .setFormatOutputData _ => true
  | .restoreFactorySettings => true
  | .encode arg data => isOpcodeByte arg && data.length ≤ 255
  | .decode _ => true
  | .readSample => true
  | .teardown => true

end Sys2Proof
end

