-- ==== Sys2Proof/Decode.lean ====
section
/-! DEFINITION. From encodings to operations and back. An operation has two encodings (rule R6): the request
record that the host presents at the OP port (rule R54; all thirteen operations), and, for the nine commands,
the wire frame (rules R37, R49). Both decoders are total and reject by name. -/

namespace Sys2Proof

open Machine

/-- Why an encoding names no operation. -/
inductive Reject where
  /-- The OPSEL value is reserved (rules R54, R55): the block delivers `IllegalRequest`. -/
  | reservedOpsel (b : Byte)
  /-- The bytes are no frame (rule R61). -/
  | notAFrame (f : Failure)
  /-- A frame whose payload length is not the one the catalog gives its command's request (rule R49). -/
  | notARequest (c : CommandId)
  deriving DecidableEq, Repr

/-- The OPSEL value of TEARDOWN (rule R54). -/
def opselTeardown : Byte := 0x04

/-- The operation a request record names (rule R54). Fields the table calls ignored are not looked at. -/
def decodeRequest (r : Request) : Except Reject Instr :=
  if r.opsel = 0x01 then .ok (.encode r.arg r.data)
  else if r.opsel = 0x02 then .ok (.decode r.data)
  else if r.opsel = 0x03 then .ok .readSample
  else if r.opsel = opselTeardown then .ok .teardown
  else if r.opsel = 0x60 then .ok .startScan
  else if r.opsel = 0x61 then .ok .stopScan
  else if r.opsel = 0x62 then .ok .getDeviceInfo
  else if r.opsel = 0x63 then .ok .selfTest
  else if r.opsel = 0x64 then .ok (.setOutputFreq r.arg)
  else if r.opsel = 0x65 then .ok (.setFilter r.arg)
  else if r.opsel = 0x66 then .ok (.setSerialBaud r.arg)
  else if r.opsel = 0x67 then .ok (.setFormatOutputData r.arg)
  else if r.opsel = 0x68 then .ok .restoreFactorySettings
  else .error (.reservedOpsel r.opsel)

/-- The request record of an operation (rule R54), ignored fields 0 and empty. -/
def encodeRequest : Instr → Request
  | .startScan => ⟨0x60, 0, []⟩
  | .stopScan => ⟨0x61, 0, []⟩
  | .getDeviceInfo => ⟨0x62, 0, []⟩
  | .selfTest => ⟨0x63, 0, []⟩
  | .setOutputFreq arg => ⟨0x64, arg, []⟩
  | .setFilter arg => ⟨0x65, arg, []⟩
  | .setSerialBaud arg => ⟨0x66, arg, []⟩
  | .setFormatOutputData v => ⟨0x67, v, []⟩
  | .restoreFactorySettings => ⟨0x68, 0, []⟩
  | .encode arg data => ⟨0x01, arg, data⟩
  | .decode data => ⟨0x02, 0, data⟩
  | .readSample => ⟨0x03, 0, []⟩
  | .teardown => ⟨opselTeardown, 0, []⟩

/-- A command whose request has an empty payload (REQ0 of rule R43). -/
def reqEmpty (c : CommandId) (i : Instr) : Bytes → Except Reject Instr
  | [] => .ok i
  | _ :: _ => .error (.notARequest c)

/-- A command whose request carries one operand byte (REQ1 of rule R43). -/
def reqByte (c : CommandId) (f : Byte → Instr) : Bytes → Except Reject Instr
  | [v] => .ok (f v)
  | [] => .error (.notARequest c)
  | _ :: _ :: _ => .error (.notARequest c)

/-- The command operation whose request a frame is: the table of rule R49 read from right to left (log entry 10). -/
def instrOfFrame (f : Frame) : Except Reject Instr :=
  match f.command with
  | .startScan => reqEmpty .startScan .startScan f.payload
  | .stopScan => reqEmpty .stopScan .stopScan f.payload
  | .getDeviceInfo => reqEmpty .getDeviceInfo .getDeviceInfo f.payload
  | .selfTest => reqEmpty .selfTest .selfTest f.payload
  | .setOutputFreq => reqByte .setOutputFreq .setOutputFreq f.payload
  | .setFilter => reqByte .setFilter .setFilter f.payload
  | .setSerialBaud => reqByte .setSerialBaud .setSerialBaud f.payload
  | .setFormatOutputData => reqByte .setFormatOutputData .setFormatOutputData f.payload
  | .restoreFactorySettings => reqEmpty .restoreFactorySettings .restoreFactorySettings f.payload

/-- The command operation that the bytes of a wire frame stand for (rules R37, R49, R61). -/
def decodeWire (raw : Bytes) : Except Reject Instr :=
  match decodeFrame raw with
  | .error f => .error (.notAFrame f)
  | .ok f => instrOfFrame f

/-- The wire frame of a command operation (rule R49); none for the four operations without a wire opcode. -/
def encodeWire : Instr → Option Bytes
  | .startScan => some (encodeFrame .startScan [])
  | .stopScan => some (encodeFrame .stopScan [])
  | .getDeviceInfo => some (encodeFrame .getDeviceInfo [])
  | .selfTest => some (encodeFrame .selfTest [])
  | .setOutputFreq arg => some (encodeFrame .setOutputFreq [arg])
  | .setFilter arg => some (encodeFrame .setFilter [arg])
  | .setSerialBaud arg => some (encodeFrame .setSerialBaud [arg])
  | .setFormatOutputData v => some (encodeFrame .setFormatOutputData [v])
  | .restoreFactorySettings => some (encodeFrame .restoreFactorySettings [])
  | .encode _ _ => none
  | .decode _ => none
  | .readSample => none
  | .teardown => none

/-- The frame whose bytes 0 to 3 are the 32-bit value `HDR0 << 24 | HDR1 << 16 | OPCODE << 8 | LEN` of the
opcode table, its payload bytes 0 and its checksum the one rule R57 gives (log entry 10). -/
def frameOfTableWord (w : Nat) : Bytes :=
  let len := lsb w
  let body := [lsb (w / 16777216), lsb (w / 65536), lsb (w / 256), len] ++ List.replicate len.toNat 0
  body ++ [checksum body]

/-- The request whose OPSEL byte is a row's 8-bit word, its other fields 0 and empty. -/
def requestOfOpsel (w : Nat) : Request := ⟨lsb w, 0, []⟩

/-- The operation a word of the opcode table stands for: an 8-bit word is an OPSEL byte, a 32-bit word the first
four bytes of a wire frame. -/
def decodeTableWord (nbits w : Nat) : Option Instr :=
  if nbits = 8 then (decodeRequest (requestOfOpsel w)).toOption
  else if nbits = 32 then (decodeWire (frameOfTableWord w)).toOption
  else none

/-- The request that presents a word of the opcode table at the OP port; a word that stands for no operation is
presented as a reserved OPSEL. -/
def requestOfTableWord (nbits w : Nat) : Request :=
  match decodeTableWord nbits w with
  | some i => encodeRequest i
  | none => if nbits = 8 then requestOfOpsel w else ⟨0x00, 0, []⟩

end Sys2Proof
end

