-- ==== Sys2Proof/Machine/Operands.lean ====
section
/-! DEFINITION. The operand forms. On the way out: the transaction a request's operand byte stands for (rules R46
to R48, R55). On the way in: the fixed-offset fields of a response payload, one decoder for each response
(rules R50, R73). -/

namespace Sys2Proof.Machine

/-- SET_OUTPUT_FREQ's operand (rules R46, R55). -/
def freqOperand (arg : Byte) : Option Transaction := (freqOfByte arg).map .setOutputFreq

/-- SET_FILTER's operand (rules R47, R55). -/
def filterOperand (arg : Byte) : Option Transaction := (filterOfByte arg).map .setFilter

/-- SET_SERIAL_BAUD's operand (rules R48, R55). -/
def baudOperand (arg : Byte) : Option Transaction := (baudOfByte arg).map .setSerialBaud

/-- The transaction an operation asks for; none for the pure operations, for TEARDOWN, and where the operand byte
stands for nothing (rules R18, R55). -/
def transactionOf : Instr → Option Transaction
  | .startScan => some .startScan
  | .stopScan => some .stopScan
  | .getDeviceInfo => some .getDeviceInfo
  | .selfTest => some .selfTest
  | .setOutputFreq arg => freqOperand arg
  | .setFilter arg => filterOperand arg
  | .setSerialBaud arg => baudOperand arg
  | .setFormatOutputData v => some (.setFormatOutputData v)
  | .restoreFactorySettings => some .restoreFactorySettings
  | .encode _ _ => none
  | .decode _ => none
  | .readSample => some .readSample
  | .teardown => none

/-- `sample_decode` (rule R85): the distance low byte first (rule R27). -/
def sampleDecode : Bytes → Result
  | lo :: hi :: intensity :: disturb :: _ =>
    .ok (.sample ⟨(lo.zeroExtend 16) ||| (hi.zeroExtend 16 <<< 8), intensity, disturb⟩)
  | _ => .fault .malformedFrame

/-- The loop of `serial_parse`: `n` is the number read so far (rule R90). -/
def serialFrom (n : Nat) : Bytes → Option Nat
  | [] => some n
  | d :: ds => if d.toNat > 9 then none else serialFrom (n * 10 + d.toNat) ds

/-- `serial_parse` (rule R90); `none` is its `MalformedFrame`. -/
def serialParse (digits : Bytes) : Option Nat := serialFrom 0 digits

/-- `version_decode` (rule R89). -/
def versionDecode : Bytes → Result
  | model :: hw :: major :: minor :: digits =>
    match serialParse digits with
    | none => .fault .malformedFrame
    | some n => .ok (.version ⟨model, hw, major, minor, n⟩)
  | _ => .fault .malformedFrame

/-- `selftest_decode` (rule R92). -/
def selftestDecode : Bytes → Result
  | flag :: code :: rest =>
    if flag ≠ 0x01 then .fault (.selfTestFailed code) else .ok (.selfTest ⟨true, code, rest⟩)
  | _ => .fault .malformedFrame

/-- `echo_decode` (rule R93). -/
def echoDecode (requested : Byte) : Bytes → Result
  | echoed :: _ =>
    if echoed ≠ requested then .fault (.configurationRejected requested echoed) else .ok .unit
  | [] => .fault .malformedFrame

/-- `rsp_decode(op, payload)`: the response decoder of each transaction operation (rules R67, R82 to R98). -/
def rspDecode : Transaction → Bytes → Result
  | .startScan, _ => .ok .unit
  | .stopScan, _ => .ok .unit
  | .getDeviceInfo, p => versionDecode p
  | .selfTest, p => selftestDecode p
  | .setOutputFreq f, p => echoDecode (freqByte f) p
  | .setFilter x, p => echoDecode (filterByte x) p
  | .setSerialBaud b, p => echoDecode (baudByte b) p
  | .setFormatOutputData _, p => .ok (.bytes p)
  | .restoreFactorySettings, p => .ok (.bytes p)
  | .readSample, p => sampleDecode p

/-- Whether a response's command is one the transaction accepts: the one sent, or any for READ_SAMPLE
(rule R72 step 4). -/
def answers (t : Transaction) (c : CommandId) : Bool :=
  match cmdOf t with
  | none => true
  | some sent => sent == c

/-- `complete_result` (rule R72), its five steps in order. -/
def completeResult (t : Transaction) : RxEvent → Result
  | .timeout => .fault .deviceUnresponsive
  | .burst raw =>
    if raw.length = 0 then .fault .noDataReceived
    else
      match decodeFrame raw with
      | .error f => .fault f
      | .ok f => if answers t f.command then rspDecode t f.payload else .fault .malformedFrame

end Sys2Proof.Machine
end

