-- ==== Sys2Proof/Machine/State.lean ====
section
/-! DEFINITION. The state of the machine, and the reasons a step can stop.

The spec gives the block two pieces of state, STATE and INFLIGHT (rules R16, R18, R24). The other four fields are
what stands at its ports: the request the host is presenting and the block has not taken (rule R74), the host
events still to come, and the outputs so far. They are the environment's side of the interface, held here as
plain data so that the step is a function of one state (log entries 2, 3, 7). -/

namespace Sys2Proof.Machine

/-- Why the model stops. Each is a broken DUTY OF THE HOST (rule R36), about which "the spec says nothing of the
run"; none is a fault of the spec (those are `Failure`, delivered as results). All three are raised when a host
event is taken, never by an operation's own effect, and all are safe: the block has no step there. -/
inductive Fault where
  /-- An RX event is presented while nothing is in flight: "has no step: the host must not present one"
  (rule R71, rule R36 row 5). Raised by `presentRx`. Safe. -/
  | rxWithNothingInFlight
  /-- `RxTimeout` is presented although `HAS_TIMEOUT` is false (rule R36 row 6). Raised by `presentRx`. Safe. -/
  | timeoutNotProvided
  /-- A second request is presented while one already waits at the OP port (rule R36 row 1). Raised by `hold`,
  so by every operation but TEARDOWN. Safe. -/
  | secondRequestAtPort
  deriving DecidableEq, Repr

/-- An instruction without a meaning. -/
inductive Refusal where
  /-- The arm of `exec` has no meaning for the instruction. No arm uses it in this model. Safe. -/
  | notModelled (mnemonic : String)
  deriving DecidableEq, Repr

/-- The state of the machine. -/
structure State where
  /-- STATE, the controller state (rule R16). -/
  session : SessionState
  /-- INFLIGHT, the in-flight latch (rule R18). -/
  inflight : Option Transaction
  /-- The request that stands at the OP port and has not been taken (rule R74). -/
  opPort : Option Request
  /-- What the host presents from here on, the next event first (rules R9, R33). -/
  inputs : List HostEvent
  /-- The bursts handed out at TX so far, oldest first; no rule reads them (rule R29). -/
  tx : List Bytes
  /-- The results handed out at RES so far, oldest first; no rule reads them (rules R15, R78). -/
  res : List Result
  deriving DecidableEq, Repr

/-- The machine right after RESET: STATE = Idle, INFLIGHT = None (rules R24, R124); nothing presented and nothing
handed out yet. -/
def State.reset : State where
  session := .idle
  inflight := none
  opPort := none
  inputs := []
  tx := []
  res := []

end Sys2Proof.Machine
end

