-- ==== Sys2Proof/Machine/Ops.lean ====
section
/-! DEFINITION. The named operations every meaning is made of: reading and writing the ports and the two pieces of
state, delivering a fault (the block's "taking an exception", rule R113), and the events ISSUE, COMPLETE, TEARDOWN,
RESET and the refusal of an ill-formed request (rule R76).

There is no return from a fault: "There is no return operation and nothing to restore" (rule R115). The block is
at once ready for the next operation. -/

namespace Sys2Proof.Machine

/-- STATE_OUT: the current value of STATE, readable at any time with no side effect (rules R8, R16). -/
def stateOut (s : State) : SessionState := s.session

/-- `STATE <- st`. -/
def setSession (st : SessionState) (s : State) : State := { s with session := st }

/-- `INFLIGHT <- x`. -/
def setInflight (x : Option Transaction) (s : State) : State := { s with inflight := x }

/-- `emit TX <- b` (rule R11): one burst, whole. -/
def emit (b : Bytes) (s : State) : State := { s with tx := s.tx ++ [b] }

/-- `deliver RES <- r` (rule R11). -/
def deliver (r : Result) (s : State) : State := { s with res := s.res ++ [r] }

/-- Delivering a fault, the one shared operation (rule R113): `Fault(f)` on RES in place of the value, INFLIGHT is
`None` afterwards, STATE is unchanged, nothing is saved and nothing already sent is undone. -/
def raise (f : Failure) (s : State) : State := deliver (.fault f) (setInflight none s)

/-- The refusal of an ill-formed request (rule R55). -/
def refuse (s : State) : State := raise .illegalRequest s

/-- The request frame of a transaction on TX; READ_SAMPLE sends nothing (rule R70). -/
def send (t : Transaction) (s : State) : State :=
  match cmdOf t with
  | none => s
  | some c => emit (encodeFrame c (reqPayload t)) s

/-- What the ISSUE event does with the guard's answer (rule R70). -/
def issueWith (g : Guard) (t : Transaction) (s : State) : State :=
  match g with
  | .reject f => raise f s
  | .skip => deliver (.ok .unit) s
  | .pass => setInflight (some t) (send t s)

/-- The ISSUE event of a transaction operation (rule R70); the caller has checked that nothing is in flight. -/
def issue (t : Transaction) (s : State) : State :=
  issueWith (guardOf Config.stopWhenIdle t s.session) t s

/-- The ISSUE event of an operation with an operand byte: a byte that stands for no operand is an ill-formed
request, tested before the guard (rules R55, R112). -/
def issueOperand (t : Option Transaction) (s : State) : State :=
  match t with
  | none => refuse s
  | some t => issue t s

/-- How COMPLETE ends with a given result: INFLIGHT is cleared whatever it is, STATE moves only on `Ok`
(rule R71). -/
def finish (t : Transaction) (r : Result) (s : State) : State :=
  match r with
  | .ok v => deliver (.ok v) (setSession (nextState t s.session) (setInflight none s))
  | .fault f => raise f s

/-- The COMPLETE event (rule R71). -/
def complete (t : Transaction) (ev : RxEvent) (s : State) : State := finish t (completeResult t ev) s

/-- TEARDOWN (rule R86): a stop frame exactly when STATE = Scanning; a transaction in flight is abandoned without a
result; the teardown's own result is always `Ok(unit)`. -/
def teardown (s : State) : State :=
  let sent :=
    match s.session with
    | .scanning => emit (encodeFrame .stopScan []) s
    | .idle => s
  deliver (.ok .unit) (setSession .idle (setInflight none sent))

/-- The RESET event (rule R123): nothing on TX, nothing on RES. -/
def resetEvent (s : State) : State := setSession .idle (setInflight none s)

/-- A request that is not taken waits at the OP port: no fault, nothing delivered (rule R74). The port holds one
request; a second one breaks the host's duty (rule R36 row 1; log entry 4). -/
def hold (r : Request) (s : State) : Host.Outcome State Fault Refusal :=
  match s.opPort with
  | none => .next { s with opPort := some r }
  | some _ => .fault .secondRequestAtPort

/-- `require INFLIGHT = None` at the OP port (rules R60, R62, R70, R74): with nothing in flight the request `r` is
taken and `effect` happens; otherwise it waits. -/
def accept (r : Request) (effect : State → State) (s : State) : Host.Outcome State Fault Refusal :=
  match s.inflight with
  | none => .next (effect s)
  | some _ => hold r s

end Sys2Proof.Machine
end

