-- ==== Sys2Proof/Machine/CodecOps.lean ====
section
/-! DEFINITION. The two pure operations: ENCODE and DECODE (40_frame_codec.md). No guard, nothing on TX. -/

namespace Sys2Proof.Machine

/-- The result of ENCODE, or `IllegalRequest` for an operand that rule R55 calls ill-formed (rule R60). -/
def encodeResult (arg : Byte) (data : Bytes) : Result :=
  match cmdOfOpcode arg with
  | none => .fault .illegalRequest
  | some c => if data.length ≤ 255 then .ok (.bytes (encodeFrame c data)) else .fault .illegalRequest

/-- The result of DECODE (rule R62). -/
def decodeResult (data : Bytes) : Result :=
  match decodeFrame data with
  | .ok f => .ok (.frame f)
  | .error f => .fault f

/-- ENCODE (rule R60). -/
def execEncode (arg : Byte) (data : Bytes) (s : State) : Host.Outcome State Fault Refusal :=
  accept (encodeRequest (.encode arg data)) (deliver (encodeResult arg data)) s

/-- DECODE (rule R62). -/
def execDecode (data : Bytes) (s : State) : Host.Outcome State Fault Refusal :=
  accept (encodeRequest (.decode data)) (deliver (decodeResult data)) s

end Sys2Proof.Machine
end

