-- ==== Sys2Proof/Machine/Configure.lean ====
section
/-! DEFINITION. The configuration commands (44_config_commands.md). -/

namespace Sys2Proof.Machine

/-- SET_OUTPUT_FREQ (rule R94); `arg > 0x05` is ill-formed (rule R55). -/
def execSetOutputFreq (arg : Byte) (s : State) : Host.Outcome State Fault Refusal :=
  accept (encodeRequest (.setOutputFreq arg)) (issueOperand (freqOperand arg)) s

/-- SET_FILTER (rule R95); `arg > 0x01` is ill-formed (rule R55). -/
def execSetFilter (arg : Byte) (s : State) : Host.Outcome State Fault Refusal :=
  accept (encodeRequest (.setFilter arg)) (issueOperand (filterOperand arg)) s

/-- SET_SERIAL_BAUD (rule R96); `arg > 0x01`, a reserved rate among them, is ill-formed (rules R48, R55). -/
def execSetSerialBaud (arg : Byte) (s : State) : Host.Outcome State Fault Refusal :=
  accept (encodeRequest (.setSerialBaud arg)) (issueOperand (baudOperand arg)) s

/-- SET_FORMAT_OUTPUT_DATA (rule R97): no operand value is ill-formed. -/
def execSetFormatOutputData (v : Byte) (s : State) : Host.Outcome State Fault Refusal :=
  accept (encodeRequest (.setFormatOutputData v)) (issue (.setFormatOutputData v)) s

/-- RESTORE_FACTORY_SETTINGS (rule R98). -/
def execRestoreFactorySettings (s : State) : Host.Outcome State Fault Refusal :=
  accept (encodeRequest .restoreFactorySettings) (issue .restoreFactorySettings) s

end Sys2Proof.Machine
end

