-- ==== Sys2Proof/Machine/Query.lean ====
section
/-! DEFINITION. The query commands: GET_DEVICE_INFO, SELF_TEST (43_query_commands.md). -/

namespace Sys2Proof.Machine

/-- GET_DEVICE_INFO (rule R88). -/
def execGetDeviceInfo (s : State) : Host.Outcome State Fault Refusal :=
  accept (encodeRequest .getDeviceInfo) (issue .getDeviceInfo) s

/-- SELF_TEST (rule R91). -/
def execSelfTest (s : State) : Host.Outcome State Fault Refusal :=
  accept (encodeRequest .selfTest) (issue .selfTest) s

end Sys2Proof.Machine
end

