-- ==== Sys2Proof/Machine/Scan.lean ====
section
/-! DEFINITION. The scan controller's operations: START_SCAN, STOP_SCAN, READ_SAMPLE, TEARDOWN (42_scan_control.md).
A transaction operation's meaning is the event its request causes; what its answer causes is `complete`, with the
operation's own `nextState` and `rspDecode` (log entry 1). -/

namespace Sys2Proof.Machine

/-- START_SCAN (rule R82). -/
def execStartScan (s : State) : Host.Outcome State Fault Refusal :=
  accept (encodeRequest .startScan) (issue .startScan) s

/-- STOP_SCAN (rule R83). -/
def execStopScan (s : State) : Host.Outcome State Fault Refusal :=
  accept (encodeRequest .stopScan) (issue .stopScan) s

/-- READ_SAMPLE (rule R84). -/
def execReadSample (s : State) : Host.Outcome State Fault Refusal :=
  accept (encodeRequest .readSample) (issue .readSample) s

/-- TEARDOWN (rule R86): enabled always, also while a transaction is in flight. -/
def execTeardown (s : State) : Host.Outcome State Fault Refusal := .next (teardown s)

end Sys2Proof.Machine
end

