-- ==== Sys2Proof/Machine/Dispatch.lean ====
section
/-! DEFINITION. One arm for each operation. -/

namespace Sys2Proof.Machine

def exec (i : Instr) (s : State) : Host.Outcome State Fault Refusal :=
  match i with
  | .startScan => Sys2Proof.Machine.execStartScan s
  | .stopScan => Sys2Proof.Machine.execStopScan s
  | .getDeviceInfo => Sys2Proof.Machine.execGetDeviceInfo s
  | .selfTest => Sys2Proof.Machine.execSelfTest s
  | .setOutputFreq arg => Sys2Proof.Machine.execSetOutputFreq arg s
  | .setFilter arg => Sys2Proof.Machine.execSetFilter arg s
  | .setSerialBaud arg => Sys2Proof.Machine.execSetSerialBaud arg s
  | .setFormatOutputData v => Sys2Proof.Machine.execSetFormatOutputData v s
  | .restoreFactorySettings => Sys2Proof.Machine.execRestoreFactorySettings s
  | .encode arg data => Sys2Proof.Machine.execEncode arg data s
  | .decode data => Sys2Proof.Machine.execDecode data s
  | .readSample => Sys2Proof.Machine.execReadSample s
  | .teardown => Sys2Proof.Machine.execTeardown s

end Sys2Proof.Machine
end

