-- ==== Sys2Proof/Machine/Ports.lean ====
section
/-! DEFINITION. Taking what the host presents: the fetch of this block (rule R14: it has no program counter).
One step is one event of rule R76, chosen by what stands at the ports:
a request that waits at OP goes first as soon as it can be taken (rule R74);
otherwise the host's next event is taken;
if there is none, nothing happens: the block takes no event on its own (rules R76, R111, R133). -/

namespace Sys2Proof.Machine

/-- A request is taken: the operation it names is run; a reserved OPSEL is refused (rules R54, R55). -/
def runRequest (r : Request) (s : State) : Host.Outcome State Fault Refusal :=
  match decodeRequest r with
  | .ok i => exec i s
  | .error _ => accept r refuse s

/-- Whether a waiting request can be taken now: when nothing is in flight, or when it is a TEARDOWN (rule R74). -/
def canTake (r : Request) (s : State) : Bool := s.inflight.isNone || r.opsel == opselTeardown

/-- An RX event is presented (rules R71, R36 rows 5 and 6). -/
def presentRx (ev : RxEvent) (s : State) : Host.Outcome State Fault Refusal :=
  match s.inflight with
  | none => .fault .rxWithNothingInFlight
  | some t =>
    match ev with
    | .burst raw => .next (complete t (.burst raw) s)
    | .timeout => if Config.hasTimeout then .next (complete t .timeout s) else .fault .timeoutNotProvided

/-- The host's next event is taken. -/
def presentNext (s : State) : Host.Outcome State Fault Refusal :=
  match s.inputs with
  | [] => .next s
  | .request r :: rest => runRequest r { s with inputs := rest }
  | .rx ev :: rest => presentRx ev { s with inputs := rest }
  | .reset :: rest => .next (resetEvent { s with inputs := rest })

/-- One event of the block. -/
def advance (s : State) : Host.Outcome State Fault Refusal :=
  match s.opPort with
  | none => presentNext s
  | some r => if canTake r s then runRequest r { s with opPort := none } else presentNext s

end Sys2Proof.Machine
end

