-- ==== Sys2Proof/Machine/Step.lean ====
section
/-! DEFINITION. One step of the machine, and the placing of an instruction where the step takes its next one. -/

namespace Sys2Proof.Machine

/-- One step: one event of rule R76, or nothing where the host presents nothing. -/
def step (s : State) : Host.Outcome State Fault Refusal := advance s

/-- The instruction of an opcode-table word presented at the OP port, where the next step takes it as soon as
nothing is in flight (rule R74; log entry 11). -/
def State.withFetchWord (s : State) (nbits w : Nat) : State :=
  { s with opPort := some (requestOfTableWord nbits w) }

end Sys2Proof.Machine
end

