-- ==== Sys2Proof/Machine/Flags.lean ====
section
/-! DEFINITION. The block has no flags and no condition codes (rule R15). What a host reads of an outcome is the
RES record with its status code (rules R100, R118), and STATE_OUT with the bit that encodes STATE (rule R16). -/

namespace Sys2Proof.Machine

/-- The status code of a fault (rule R100). -/
def failureCode : Failure → BitVec 4
  | .malformedFrame => 1
  | .checksumMismatch _ _ => 2
  | .noDataReceived => 3
  | .operationNotAllowedWhileScanning => 4
  | .operationRequiresScanning => 5
  | .selfTestFailed _ => 6
  | .configurationRejected _ _ => 7
  | .deviceUnresponsive => 8
  | .illegalRequest => 15

/-- What a fault carries, as the two information bytes (rule R118). -/
def failureInfo : Failure → Byte × Byte
  | .malformedFrame => (0, 0)
  | .checksumMismatch expected actual => (expected, actual)
  | .noDataReceived => (0, 0)
  | .operationNotAllowedWhileScanning => (0, 0)
  | .operationRequiresScanning => (0, 0)
  | .selfTestFailed code => (code, 0)
  | .configurationRejected requested echoed => (requested, echoed)
  | .deviceUnresponsive => (0, 0)
  | .illegalRequest => (0, 0)

/-- A result as the record on the RES port (rule R118). -/
def resRecord : Result → ResRecord
  | .ok v => ⟨0, 0, 0, some v⟩
  | .fault f => ⟨failureCode f, (failureInfo f).1, (failureInfo f).2, none⟩

/-- The bit that encodes STATE: Idle = 0, Scanning = 1 (rule R16, decision D3). -/
def sessionBit : SessionState → BitVec 1
  | .idle => 0
  | .scanning => 1

end Sys2Proof.Machine
end

