-- ==== Sys2Proof/Machine/Atomic.lean ====
section
/-! DEFINITION. The function `exec` of rule R75: the whole of an operation as one function of STATE, the operation
and the RX event that answers it. It is written from that rule's own pseudocode and shares no event with the
two-event machine, so that their agreement can be stated (the machine's step never calls it). -/

namespace Sys2Proof.Machine

/-- What `exec` of rule R75 returns. -/
structure Atomic where
  session : SessionState
  tx : Bytes
  result : Result
  deriving DecidableEq, Repr

/-- The branch of a transaction operation (rule R75); `p` is `STOP_WHEN_IDLE`. -/
def atomicTransaction (p : StopWhenIdle) (t : Transaction) (st : SessionState) (ev : RxEvent) : Atomic :=
  match guardOf p t st with
  | .reject f => ⟨st, [], .fault f⟩
  | .skip => ⟨st, [], .ok .unit⟩
  | .pass =>
    let tx := match cmdOf t with
      | none => []
      | some c => encodeFrame c (reqPayload t)
    match completeResult t ev with
    | .ok v => ⟨nextState t st, tx, .ok v⟩
    | .fault f => ⟨st, tx, .fault f⟩

/-- An operand that stands for nothing is refused before the guard (rule R55). -/
def atomicOperand (p : StopWhenIdle) (t : Option Transaction) (st : SessionState) (ev : RxEvent) : Atomic :=
  match t with
  | none => ⟨st, [], .fault .illegalRequest⟩
  | some t => atomicTransaction p t st ev

/-- `exec` of rule R75. -/
def atomicExec (p : StopWhenIdle) (st : SessionState) (i : Instr) (ev : RxEvent) : Atomic :=
  match i with
  | .startScan => atomicTransaction p .startScan st ev
  | .stopScan => atomicTransaction p .stopScan st ev
  | .getDeviceInfo => atomicTransaction p .getDeviceInfo st ev
  | .selfTest => atomicTransaction p .selfTest st ev
  | .setOutputFreq arg => atomicOperand p (freqOperand arg) st ev
  | .setFilter arg => atomicOperand p (filterOperand arg) st ev
  | .setSerialBaud arg => atomicOperand p (baudOperand arg) st ev
  | .setFormatOutputData v => atomicTransaction p (.setFormatOutputData v) st ev
  | .restoreFactorySettings => atomicTransaction p .restoreFactorySettings st ev
  | .readSample => atomicTransaction p .readSample st ev
  | .encode arg data => ⟨st, [], encodeResult arg data⟩
  | .decode data => ⟨st, [], decodeResult data⟩
  | .teardown =>
    ⟨.idle, match st with | .scanning => encodeFrame .stopScan [] | .idle => [], .ok .unit⟩

/-- Whether the operation consumes the RX event: it does when the guard of its transaction passes ("ev not
consumed" in every other branch of rule R75). -/
def consumesRx (p : StopWhenIdle) (st : SessionState) (i : Instr) : Bool :=
  match transactionOf i with
  | none => false
  | some t => guardOf p t st == .pass

end Sys2Proof.Machine
end

