-- ==== Sys2Proof/Machine/Events.lean ====
section
/-! DEFINITION. Which event of rule R76 a step takes, and the events of a run: what the end of a run is defined by
(rule R135). Nothing here is read by the step. -/

namespace Sys2Proof.Machine

/-- The event of a transaction operation's request; an operand byte that stands for nothing is refused (rule R55). -/
def issueEvent : Option Transaction → Event
  | some t => .issue t
  | none => .refusal

/-- The event an operation's request causes when it is taken (rules R55, R76). -/
def operationEvent (i : Instr) : Event :=
  match i with
  | .startScan => .issue .startScan
  | .stopScan => .issue .stopScan
  | .getDeviceInfo => .issue .getDeviceInfo
  | .selfTest => .issue .selfTest
  | .setOutputFreq arg => issueEvent (freqOperand arg)
  | .setFilter arg => issueEvent (filterOperand arg)
  | .setSerialBaud arg => issueEvent (baudOperand arg)
  | .setFormatOutputData v => .issue (.setFormatOutputData v)
  | .restoreFactorySettings => .issue .restoreFactorySettings
  | .encode arg data => if wellFormed (.encode arg data) then .encode arg data else .refusal
  | .decode data => .decode data
  | .readSample => .issue .readSample
  | .teardown => .teardown

/-- The event a request causes; a reserved OPSEL is refused (rule R55). -/
def requestEvent (r : Request) : Event :=
  match decodeRequest r with
  | .ok i => operationEvent i
  | .error _ => .refusal

/-- The event of a request at the OP port: none where it is not taken and waits (rule R74). -/
def eventAtOp (r : Request) (s : State) : Option Event :=
  if canTake r s then some (requestEvent r) else none

/-- The event of an RX event: none where it has no step (rule R71, rule R36 rows 5 and 6). -/
def eventAtRx (ev : RxEvent) (s : State) : Option Event :=
  match s.inflight with
  | none => none
  | some t =>
    match ev with
    | .burst raw => some (.complete t (.burst raw))
    | .timeout => if Config.hasTimeout then some (.complete t .timeout) else none

/-- The event of what the host presents next. -/
def eventAtHost (s : State) : Option Event :=
  match s.inputs with
  | [] => none
  | .request r :: _ => eventAtOp r s
  | .rx ev :: _ => eventAtRx ev s
  | .reset :: _ => some .reset

/-- The event the step takes; none where nothing happens in the block, be it that nothing is presented or that a
request only comes to wait. -/
def eventAt (s : State) : Option Event :=
  match s.opPort with
  | none => eventAtHost s
  | some r => if canTake r s then eventAtOp r s else eventAtHost s

/-- The events of the first `k` steps from `s`, in order; a step that stops ends them. -/
def eventsOf : Nat → State → List Event
  | 0, _ => []
  | k + 1, s =>
    match step s with
    | .next s' => (eventAt s).toList ++ eventsOf k s'
    | .fault _ => []
    | .refused _ => []

/-- The events of an operation; a refused request names none (rule R55), and RESET is none (rule R7). -/
def isOperationEvent : Event → Bool
  | .issue _ => true
  | .complete _ _ => true
  | .encode _ _ => true
  | .decode _ => true
  | .teardown => true
  | .refusal => false
  | .reset => false

end Sys2Proof.Machine
end

