-- ==== Sys2Proof/Safety.lean ====
section
/-! DEFINITION. What claims about whole runs are stated with: the invariant of rule R19, what may stand on TX
(rule R29), how a run can end (rules R133, R135), ill-formed requests (rule R55), and the host's duties that a step
can see (rule R36). -/

namespace Sys2Proof.Machine

/-- The invariant of rule R19: what is in flight is what STATE admits. -/
def InflightAgrees (s : State) : Prop :=
  ∀ t st, s.inflight = some t → requiredState t = some st → s.session = st

/-- A burst is the request frame of a transaction operation (rule R49). -/
def IsRequestFrame (b : Bytes) : Prop :=
  ∃ t c, cmdOf t = some c ∧ b = encodeFrame c (reqPayload t)

/-- Everything on TX so far is a catalog request frame, whole and alone in its burst (rule R29). -/
def TxIsCatalog (s : State) : Prop := ∀ b ∈ s.tx, IsRequestFrame b

/-- No delivered self-test outcome says `passed = false` (rule R92). -/
def OutcomesPassed (s : State) : Prop := ∀ o, Result.ok (.selfTest o) ∈ s.res → o.passed = true

/-- The invariant of the machine. -/
structure Inv (s : State) : Prop where
  inflightAgrees : InflightAgrees s
  txIsCatalog : TxIsCatalog s
  outcomesPassed : OutcomesPassed s

/-- No request that stands at the OP port can be taken now, so the next step takes the host's next event. -/
def NothingToTake (s : State) : Prop := ∀ r, s.opPort = some r → canTake r s = false

/-- The request the step at `s` looks at: the one that waits and can be taken, or else the one the host presents. -/
def Takes (s : State) (r : Request) : Prop :=
  (s.opPort = some r ∧ canTake r s = true) ∨ (NothingToTake s ∧ ∃ rest, s.inputs = .request r :: rest)

/-- The OPSEL values rule R54 assigns; every other is reserved. -/
def assignedOpsels : List Byte :=
  [0x01, 0x02, 0x03, 0x04, 0x60, 0x61, 0x62, 0x63, 0x64, 0x65, 0x66, 0x67, 0x68]

/-- Rule R55, its clauses in its order. -/
def IllFormedRequest (r : Request) : Prop :=
  r.opsel ∉ assignedOpsels ∨
    (r.opsel = 0x01 ∧ (r.arg.toNat < 0x60 ∨ 0x68 < r.arg.toNat)) ∨
    (r.opsel = 0x01 ∧ 255 < r.data.length) ∨
    (r.opsel = 0x64 ∧ 0x05 < r.arg.toNat) ∨
    (r.opsel = 0x65 ∧ 0x01 < r.arg.toNat) ∨
    (r.opsel = 0x66 ∧ 0x01 < r.arg.toNat)

/-! How a run can end (rule R135). -/

/-- (Idle, None): what the state is after an orderly end, and not by itself one (it is so after many a COMPLETE, and
after RESET). -/
def AtRest (s : State) : Prop := s.session = .idle ∧ s.inflight = none

/-- The run of `k` steps from `s` has ended in order: its last event was TEARDOWN, or it began at rest and no
operation was ever issued (rule R135, decision D23; log entry 19). -/
def EndedInOrder (k : Nat) (s : State) : Prop :=
  (eventsOf k s).getLast? = some .teardown ∨
    (AtRest s ∧ ∀ e ∈ eventsOf k s, isOperationEvent e = false)

/-- The run has stopped: the host presents nothing and no waiting request can be taken, so nothing happens any more
(rule R76). -/
def Stopped (s : State) : Prop := NothingToTake s ∧ s.inputs = []

/-- The run has stopped with a transaction in flight, whether or not a request waits behind it (rules R133, R135;
program P4 stopped after its line 4). -/
def Hung (s : State) : Prop := Stopped s ∧ s.inflight.isSome

/-- The run has stopped in Scanning: the device has been left streaming (rule R135). -/
def LeftStreaming (s : State) : Prop := Stopped s ∧ s.session = .scanning

/-! The host's duties. -/

/-- The host's next event keeps the duties of rule R36 that a step can see: no RX event with nothing in flight
(row 5), no timeout where `HAS_TIMEOUT` is false (row 6), and no second request while one waits (row 1; TEARDOWN
may be presented at any time, row 11). -/
def NextEventKeepsDuties (s : State) : Prop :=
  match s.inputs with
  | [] => True
  | .reset :: _ => True
  | .rx (.burst _) :: _ => s.inflight.isSome
  | .rx .timeout :: _ => s.inflight.isSome ∧ Config.hasTimeout = true
  | .request r :: _ => s.inflight = none ∨ r.opsel = opselTeardown ∨ s.opPort = none

end Sys2Proof.Machine
end

