-- ==== Sys2Proof/Certificates/Slice0/Obligations.lean ====
section
/-! DEFINITION. The statements. "At rest" in a docstring means INFLIGHT = None. Where a statement rests on one of
the spec's own decisions (92_eei_decisions.md) or on a choice of this model (notes/assumptions), its docstring says
so. Statements about an operation give the whole next state, so the frame (everything else unchanged) is part of
each of them. There is no addressable memory (rule R21), so no statement speaks of memory bytes. -/

open Sys2Proof Sys2Proof.Machine

/-! ## The frame codec -/

/-- Rule R57: the checksum is the plain sum mod 256; nothing else enters it and the order of the bytes does not
matter; the source's two examples. -/
def Obligations.ChecksumIsTheSumModulo256 : Prop :=
  (∀ bs : Bytes, (checksum bs).toNat = (bs.map BitVec.toNat).sum % 256) ∧
    checksum [] = 0 ∧
    (∀ a b : Bytes, a.Perm b → checksum a = checksum b) ∧
    checksum [0xAA, 0x55, 0x60, 0x00] = 0x5F ∧
    checksum [0xAA, 0x55, 0x61, 0x00] = 0x60

/-- The spec's inferences about the checksum (rule R58, derived there): an 8-bit accumulator that drops its carries
gives the same byte; the sum needs 17 bits; the header contributes 0xFF; any single corrupted byte is detected. -/
def Obligations.ChecksumArithmetic : Prop :=
  (∀ bs : Bytes, checksum bs = bs.foldl (fun acc b => acc + b) 0) ∧
    (∀ c (p : Bytes), p.length ≤ 255 → byteSum (frameBody c p) ≤ 65790) ∧
    (∀ c (p : Bytes), p.length ≤ 255 →
      checksum (frameBody c p) = lsb (0xFF + (opcode c).toNat + p.length + byteSum p)) ∧
    (∀ (before after : Bytes) (x y : Byte), x ≠ y →
      checksum (before ++ x :: after) ≠ checksum (before ++ y :: after))

/-- Rule R59. -/
def Obligations.EncodeBuildsTheFrame : Prop :=
  ∀ c (p : Bytes), p.length ≤ 255 →
    encodeFrame c p =
        [0xAA, 0x55, opcode c, BitVec.ofNat 8 p.length] ++ p ++
          [checksum ([0xAA, 0x55, opcode c, BitVec.ofNat 8 p.length] ++ p)] ∧
      (encodeFrame c p).length = 5 + p.length ∧
      (byteAt (encodeFrame c p) 3).toNat = p.length

/-- The tests of `decode` in their order (rule R61; its steps 3 and 5 and the order are the spec's decisions D7, D9,
D8, and which byte is `expected` is D10). Every byte sequence is shorter than 5, or is `h0 h1 op len ++ p ++ [cs]`. -/
def Obligations.DecodeTestsLengthHeaderChecksumOpcode : Prop :=
  (∀ raw : Bytes, raw.length < 5 → decodeFrame raw = .error .malformedFrame) ∧
    ∀ (h0 h1 op len cs : Byte) (p : Bytes),
      decodeFrame ([h0, h1, op, len] ++ p ++ [cs]) =
        if h0 ≠ 0xAA ∨ h1 ≠ 0x55 then .error .malformedFrame
        else if p.length ≠ len.toNat then .error .malformedFrame
        else if cs ≠ checksum ([h0, h1, op, len] ++ p) then
          .error (.checksumMismatch (checksum ([h0, h1, op, len] ++ p)) cs)
        else
          match cmdOfOpcode op with
          | none => .error .malformedFrame
          | some c => .ok ⟨c, p, cs⟩

/-- The corner cases the spec works out (rule R65, derived there). -/
def Obligations.DecodeCornerCases : Prop :=
  decodeFrame [] = .error .malformedFrame ∧
    decodeFrame [0xAA, 0x55, 0x60, 0x00] = .error .malformedFrame ∧
    decodeFrame [0xAA, 0x55, 0x60, 0x00, 0x5F] = .ok ⟨.startScan, [], 0x5F⟩ ∧
    decodeFrame [0xAB, 0x55, 0x60, 0x00, 0x60] = .error .malformedFrame ∧
    decodeFrame [0xAA, 0x54, 0x60, 0x00, 0x5E] = .error .malformedFrame ∧
    decodeFrame [0x55, 0xAA, 0x60, 0x00, 0x5F] = .error .malformedFrame ∧
    decodeFrame [0xAA, 0x55, 0x60, 0x01, 0x5F] = .error .malformedFrame ∧
    decodeFrame [0xAA, 0x55, 0x60, 0x00, 0x5F, 0x00] = .error .malformedFrame ∧
    decodeFrame [0xAA, 0x55, 0x60, 0x00, 0x5E] = .error (.checksumMismatch 0x5F 0x5E) ∧
    decodeFrame [0xAA, 0x55, 0x69, 0x00, 0x68] = .error .malformedFrame ∧
    decodeFrame [0xAA, 0x55, 0x69, 0x00, 0x00] = .error (.checksumMismatch 0x68 0x00)

/-- The round trip of the codec, both ways (rule R63; the first clause is the source's property, the spec derives
the rest, the second with its decisions D7 and D9). -/
def Obligations.DecodeAndEncodeAgree : Prop :=
  (∀ c (p : Bytes), p.length ≤ 255 →
      decodeFrame (encodeFrame c p) =
        .ok ⟨c, p, checksum ([0xAA, 0x55, opcode c, BitVec.ofNat 8 p.length] ++ p)⟩) ∧
    (∀ (raw : Bytes) f, decodeFrame raw = .ok f →
      f.payload.length ≤ 255 ∧ encodeFrame f.command f.payload = raw ∧ raw.getLast? = some f.checksum) ∧
    (∀ (raw raw' : Bytes) f, decodeFrame raw = .ok f → decodeFrame raw' = .ok f → raw = raw') ∧
    (∀ c c' (p p' : Bytes), p.length ≤ 255 → p'.length ≤ 255 → encodeFrame c p = encodeFrame c' p' →
      c = c' ∧ p = p')

/-- A corrupted last byte is never accepted (rule R66, derived there from R61). -/
def Obligations.CorruptedLastByteIsReported : Prop :=
  ∀ (body : Bytes) (cs x : Byte) f, decodeFrame (body ++ [cs]) = .ok f → x ≠ cs →
    decodeFrame (body ++ [x]) = .error (.checksumMismatch cs x)

/-- A burst must hold exactly one frame, from its first byte to its last: a byte before the frame, bytes after it,
or a missing end make it a `MalformedFrame` (rules R28, R30; decisions D7, D32). -/
def Obligations.OneBurstHoldsExactlyOneFrame : Prop :=
  (∀ c (p : Bytes) (x : Byte), p.length ≤ 255 →
      decodeFrame (x :: encodeFrame c p) = .error .malformedFrame) ∧
    (∀ c (p extra : Bytes), p.length ≤ 255 → extra ≠ [] →
      decodeFrame (encodeFrame c p ++ extra) = .error .malformedFrame) ∧
    (∀ c (p : Bytes) (k : Nat), p.length ≤ 255 → k < (encodeFrame c p).length →
      decodeFrame ((encodeFrame c p).take k) = .error .malformedFrame)

/-! ## The catalog and the encodings -/

/-- Rule R44. -/
def Obligations.OpcodesOfTheCommands : Prop :=
  opcode .startScan = 0x60 ∧ opcode .stopScan = 0x61 ∧ opcode .getDeviceInfo = 0x62 ∧
    opcode .selfTest = 0x63 ∧ opcode .setOutputFreq = 0x64 ∧ opcode .setFilter = 0x65 ∧
    opcode .setSerialBaud = 0x66 ∧ opcode .setFormatOutputData = 0x67 ∧
    opcode .restoreFactorySettings = 0x68 ∧ ∀ c c', opcode c = opcode c' → c = c'

/-- The reverse lookup and the names (rules R45, R51; the name strings are decision D31). -/
def Obligations.ReverseLookupFindsExactlyTheNine : Prop :=
  (∀ b c, cmdOfOpcode b = some c ↔ opcode c = b) ∧
    (∀ b, cmdOfOpcode b = none ↔ b.toNat < 0x60 ∨ 0x68 < b.toNat) ∧
    cmdName 0x60 = some "StartScan" ∧ cmdName 0x61 = some "StopScan" ∧
    cmdName 0x62 = some "GetDeviceInfo" ∧ cmdName 0x63 = some "SelfTest" ∧
    cmdName 0x64 = some "SetOutputFreq" ∧ cmdName 0x65 = some "SetFilter" ∧
    cmdName 0x66 = some "SetSerialBaud" ∧ cmdName 0x67 = some "SetFormatOutputData" ∧
    cmdName 0x68 = some "RestoreFactorySettings" ∧ cmdName 0x69 = none

/-- Rules R46 and R47: the operand bytes of the two enumerations, the bytes without a member, the rates, and the
source's example of an echoed frequency. -/
def Obligations.FrequencyAndFilterBytes : Prop :=
  freqByte .freq10Hz = 0x00 ∧ freqByte .freq100Hz = 0x01 ∧ freqByte .freq200Hz = 0x02 ∧
    freqByte .freq500Hz = 0x03 ∧ freqByte .freq1000Hz = 0x04 ∧ freqByte .freq1800Hz = 0x05 ∧
    (∀ f b, freqOfByte b = some f ↔ freqByte f = b) ∧
    (∀ b, freqOfByte b = none ↔ 0x06 ≤ b.toNat) ∧
    freqHz .freq10Hz = 10 ∧ freqHz .freq100Hz = 100 ∧ freqHz .freq200Hz = 200 ∧
    freqHz .freq500Hz = 500 ∧ freqHz .freq1000Hz = 1000 ∧ freqHz .freq1800Hz = 1800 ∧
    echoDecode (freqByte .freq500Hz) [0x03] = .ok .unit ∧
    filterByte .off = 0x00 ∧ filterByte .on = 0x01 ∧
    (∀ x b, filterOfByte b = some x ↔ filterByte x = b) ∧
    (∀ b, filterOfByte b = none ↔ 0x02 ≤ b.toNat)

/-- The two enabled baud rates; every other byte is reserved (rule R48, decision D21). -/
def Obligations.BaudBytesAndReservedCodes : Prop :=
  baudByte .baud230400 = 0x00 ∧ baudByte .baud460800 = 0x01 ∧
    (∀ x b, baudOfByte b = some x ↔ baudByte x = b) ∧
    (∀ b, baudOfByte b = none ↔ 0x02 ≤ b.toNat) ∧
    baudBitsPerSecond .baud230400 = 230400 ∧ baudBitsPerSecond .baud460800 = 460800

/-- The request frame of every command (rule R49; the payloads of the last two commands are decision D20), and
READ_SAMPLE, which sends none (rule R67). -/
def Obligations.RequestFramesOfTheCatalog : Prop :=
  encodeWire .startScan = some [0xAA, 0x55, 0x60, 0x00, 0x5F] ∧
    encodeWire .stopScan = some [0xAA, 0x55, 0x61, 0x00, 0x60] ∧
    encodeWire .getDeviceInfo = some [0xAA, 0x55, 0x62, 0x00, 0x61] ∧
    encodeWire .selfTest = some [0xAA, 0x55, 0x63, 0x00, 0x62] ∧
    (∀ v, encodeWire (.setOutputFreq v) = some [0xAA, 0x55, 0x64, 0x01, v, 0x64 + v]) ∧
    (∀ v, encodeWire (.setFilter v) = some [0xAA, 0x55, 0x65, 0x01, v, 0x65 + v]) ∧
    (∀ v, encodeWire (.setSerialBaud v) = some [0xAA, 0x55, 0x66, 0x01, v, 0x66 + v]) ∧
    (∀ v, encodeWire (.setFormatOutputData v) = some [0xAA, 0x55, 0x67, 0x01, v, 0x67 + v]) ∧
    encodeWire .restoreFactorySettings = some [0xAA, 0x55, 0x68, 0x00, 0x67] ∧
    (∀ i t c, transactionOf i = some t → cmdOf t = some c →
      encodeWire i = some (encodeFrame c (reqPayload t))) ∧
    cmdOf .readSample = none

/-- Decoding and encoding agree for every operation and every operand byte: on the wire for the nine commands, in
both directions, and at the OP port for all thirteen (rules R37, R49, R54; the OP port encoding is decision D4, the
wire reading of a request is log entry 10). -/
def Obligations.InstructionEncodingsRoundTrip : Prop :=
  (∀ i raw, encodeWire i = some raw → decodeWire raw = .ok i) ∧
    (∀ i raw, decodeWire raw = .ok i → encodeWire i = some raw) ∧
    (∀ i, decodeRequest (encodeRequest i) = .ok i) ∧
    (∀ i j, encodeRequest i = encodeRequest j → i = j)

/-- The rows of the opcode table, each read from its own word (rules R44, R54; decision D4), and two words that
stand for no operation (log entry 10). -/
def Obligations.TableWordsDecode : Prop :=
  decodeTableWord 32 0xAA556000 = some .startScan ∧
    decodeTableWord 32 0xAA556100 = some .stopScan ∧
    decodeTableWord 32 0xAA556200 = some .getDeviceInfo ∧
    decodeTableWord 32 0xAA556300 = some .selfTest ∧
    decodeTableWord 32 0xAA556401 = some (.setOutputFreq 0x00) ∧
    decodeTableWord 32 0xAA556501 = some (.setFilter 0x00) ∧
    decodeTableWord 32 0xAA556601 = some (.setSerialBaud 0x00) ∧
    decodeTableWord 32 0xAA556701 = some (.setFormatOutputData 0x00) ∧
    decodeTableWord 32 0xAA556800 = some .restoreFactorySettings ∧
    decodeTableWord 8 0x01 = some (.encode 0x00 []) ∧
    decodeTableWord 8 0x02 = some (.decode []) ∧
    decodeTableWord 8 0x03 = some .readSample ∧
    decodeTableWord 8 0x04 = some .teardown ∧
    decodeTableWord 32 0xAA556900 = none ∧ decodeTableWord 8 0x05 = none

/-- An ill-formed request (`IllFormedRequest`, the clauses of rule R55) is refused in either STATE: nothing sent, no
state change, `IllegalRequest`; be it presented by the host or taken after it waited at the OP port (rules R55, R74,
R109; decision D6). With a transaction in flight a reserved OPSEL waits like any request but TEARDOWN (rules R55,
R74; decision D2); the other ill-formed requests are operations and wait by `RequestsWaitWhileInFlight`. That a
request which waited is taken before whatever the host presents next, a RESET among it, is the model's choice, log
entry 3. -/
def Obligations.IllFormedRequestsAreRefused : Prop :=
  ∀ (s : State) (r : Request),
    (IllFormedRequest r → s.inflight = none →
      (∀ rest, s.opPort = none → s.inputs = .request r :: rest →
        step s = .next { s with inputs := rest, res := s.res ++ [.fault .illegalRequest] }) ∧
      (s.opPort = some r →
        step s = .next { s with opPort := none, res := s.res ++ [.fault .illegalRequest] })) ∧
    (r.opsel ∉ assignedOpsels → s.inflight.isSome → s.opPort = none →
      ∀ rest, s.inputs = .request r :: rest →
        step s = .next { s with inputs := rest, opPort := some r })

/-- The check `wellFormed` is rule R55: at rest, an operation delivers `IllegalRequest` exactly when the check refuses
it (decision D6). -/
def Obligations.IllegalRequestExactlyWhenIllFormed : Prop :=
  ∀ (i : Instr) (s : State), s.inflight = none →
    (exec i s = .next { s with res := s.res ++ [.fault .illegalRequest] } ↔ wellFormed i = false)

/-! ## The step -/

/-- A step runs the operation the request names (rules R54, R74): a request that waits at the OP port, as soon as it
can be taken, and the request the host presents next, where none can be taken. That a waiting request goes first is
the model's choice, log entry 3. The third clause, about opcode-table words placed with `withFetchWord`, rests on the
model's own choices: how a table word is completed to a request is log entry 10, that it is placed at the OP port is
log entry 11; the spec gives a table word only its opcode and its OPSEL byte. -/
def Obligations.StepRunsTheDecodedInstruction : Prop :=
  (∀ (s : State) (r : Request) (i : Instr), s.opPort = some r → s.inflight = none ∨ i = .teardown →
      decodeRequest r = .ok i → step s = exec i { s with opPort := none }) ∧
    (∀ (s : State) (r : Request) (rest : List HostEvent) (i : Instr), NothingToTake s →
      s.inputs = .request r :: rest → decodeRequest r = .ok i →
      step s = exec i { s with inputs := rest }) ∧
    (∀ (s : State) (n w : Nat) (i : Instr), s.inflight = none ∨ i = .teardown →
      decodeTableWord n w = some i →
      step (s.withFetchWord n w) = exec i { s with opPort := none })

/-- While a transaction is in flight, every operation but TEARDOWN waits at the OP port: no fault, nothing sent,
nothing delivered (rule R74, decision D2); the request that waits names the same operation. That the waiting request
stands in the state is log entry 3, that its ignored fields may have been set to 0 is log entry 13. -/
def Obligations.RequestsWaitWhileInFlight : Prop :=
  ∀ (i : Instr) (s : State), s.inflight.isSome → s.opPort = none → i ≠ .teardown →
    ∃ r, decodeRequest r = .ok i ∧ exec i s = .next { s with opPort := some r }

/-- A step stops exactly where the host breaks a duty of rule R36 that a step can see: an RX event with nothing in
flight, a timeout where `HAS_TIMEOUT` is false, a second request while one waits. It never refuses. The model's own
choices: that it stops there is log entries 4 to 6 (the spec says nothing of such a run); that a waiting request which
can be taken goes first, whatever the host presents next, is log entry 3; that a step with nothing presented goes on,
in the same state, is log entry 12. -/
def Obligations.StopsAreBrokenHostDuties : Prop :=
  (∀ s : State, (∃ t, step s = .next t) ↔
      NextEventKeepsDuties s ∨ ∃ r, s.opPort = some r ∧ canTake r s = true) ∧
    ∀ (s : State) (r : Refusal), step s ≠ .refused r

/-- The hang (rule R133): with a transaction in flight and nothing presented, nothing ever happens; no request but
TEARDOWN is accepted meanwhile; what ends the wait is TEARDOWN, RESET, or a timeout where the parameter allows it.
The model's own choices in it: that a step with nothing presented answers the same state (log entry 12), that a
waiting request which can be taken goes first, whence `NothingToTake` (log entry 3), and that a timeout stops the
model where `HAS_TIMEOUT` is false (log entry 6). -/
def Obligations.SilentDeviceHangsTheTransaction : Prop :=
  ∀ (s : State) (t : Transaction), s.inflight = some t → NothingToTake s →
    (s.inputs = [] → ∀ k, core.run k s = .next s) ∧
      (∀ r rest s', s.inputs = .request r :: rest → r.opsel ≠ 0x04 → step s = .next s' →
        s'.inflight = some t ∧ s'.session = s.session ∧ s'.tx = s.tx ∧ s'.res = s.res) ∧
      (∀ r rest, s.inputs = .request r :: rest → r.opsel = 0x04 →
        ∃ s', step s = .next s' ∧ s'.inflight = none ∧ s'.res = s.res ++ [.ok .unit]) ∧
      (∀ rest, s.inputs = .reset :: rest → ∃ s', step s = .next s' ∧ s'.inflight = none ∧ s'.res = s.res) ∧
      (∀ rest, s.inputs = .rx .timeout :: rest →
        step s = if Config.hasTimeout then
            .next { s with inputs := rest, inflight := none, res := s.res ++ [.fault .deviceUnresponsive] }
          else .fault .timeoutNotProvided)

/-! ## Guards -/

/-- In Scanning every command but STOP_SCAN (which Scanning admits) and SET_FORMAT_OUTPUT_DATA (stated apart, in
`SetFormatIsRejectedWhileScanning`) is rejected, with every operand its enumeration has; nothing is sent and nothing
changes (rules R68, R81, R104; START_SCAN among them is decision D14, that nothing is sent is D33). -/
def Obligations.CommandsAreRejectedWhileScanning : Prop :=
  ∀ s : State, s.inflight = none → s.session = .scanning →
    ∀ i ∈ [Instr.startScan, .getDeviceInfo, .selfTest, .restoreFactorySettings] ++
        [OutputFrequency.freq10Hz, .freq100Hz, .freq200Hz, .freq500Hz, .freq1000Hz, .freq1800Hz].map
          (fun f => Instr.setOutputFreq (freqByte f)) ++
        [FilterState.off, .on].map (fun x => Instr.setFilter (filterByte x)) ++
        [BaudRate.baud230400, .baud460800].map (fun b => Instr.setSerialBaud (baudByte b)),
      exec i s = .next { s with res := s.res ++ [.fault .operationNotAllowedWhileScanning] }

/-- The same for SET_FORMAT_OUTPUT_DATA with any operand byte (rules R81, R97, R104; decisions D20, D33). -/
def Obligations.SetFormatIsRejectedWhileScanning : Prop :=
  ∀ (s : State) (v : Byte), s.inflight = none → s.session = .scanning →
    exec (.setFormatOutputData v) s =
      .next { s with res := s.res ++ [.fault .operationNotAllowedWhileScanning] }

/-- STOP_SCAN in Idle, for either value of the open parameter: nothing sent, STATE stays Idle, only the result differs
(rules R68, R83; decision D15). -/
def Obligations.StopScanInIdle : Prop :=
  ∀ s : State, s.inflight = none → s.session = .idle →
    exec .stopScan s =
      .next { s with
        res := s.res ++ [match Config.stopWhenIdle with
          | .reject => .fault .operationRequiresScanning
          | .noOp => .ok .unit] }

/-- Rule R105, over the step: a step delivers `OperationRequiresScanning` exactly when `STOP_WHEN_IDLE` is `Reject`,
STATE is Idle, nothing is in flight, and it takes a STOP_SCAN request, one that waited at the OP port or the one the
host presents. So nothing else raises it, and with `STOP_WHEN_IDLE = NoOp` nothing does. The other clauses say the
same of the functions a result comes from: the guard, for both values of the parameter (READ_SAMPLE has none),
COMPLETE, ENCODE and DECODE. That the step takes a waiting STOP_SCAN before whatever the host presents next, a RESET
among it (`Takes`), is the model's choice, log entry 3. -/
def Obligations.RequiresScanningHasOneCause : Prop :=
  (∀ s s' : State, step s = .next s' →
      (s'.res = s.res ++ [.fault .operationRequiresScanning] ↔
        Config.stopWhenIdle = .reject ∧ s.session = .idle ∧ s.inflight = none ∧
          ∃ r, Takes s r ∧ decodeRequest r = .ok .stopScan)) ∧
    (∀ p t st, guardOf p t st = .reject .operationRequiresScanning ↔
      t = .stopScan ∧ st = .idle ∧ p = .reject) ∧
    (∀ p st, guardOf p .readSample st = .pass) ∧
    (∀ t ev, completeResult t ev ≠ .fault .operationRequiresScanning) ∧
    (∀ arg data, encodeResult arg data ≠ .fault .operationRequiresScanning) ∧
    ∀ data, decodeResult data ≠ .fault .operationRequiresScanning

/-- Rule R69: the state after a successful transaction, what STATE was where the guard of the two transitions passed,
and that a transaction that ends in a fault takes no transition. -/
def Obligations.NextStateOfASuccessfulTransaction : Prop :=
  (∀ st, nextState .startScan st = .scanning) ∧ (∀ st, nextState .stopScan st = .idle) ∧
    (∀ t st, t ≠ .startScan → t ≠ .stopScan → nextState t st = st) ∧
    (∀ p st, guardOf p .startScan st = .pass → st = .idle) ∧
    (∀ p st, guardOf p .stopScan st = .pass → st = .scanning) ∧
    (∀ t ev (s : State) v, completeResult t ev = .ok v →
      (complete t ev s).session = nextState t s.session) ∧
    ∀ t ev (s : State) f, completeResult t ev = .fault f → (complete t ev s).session = s.session

/-! ## The operations, from their request to their result -/

/-- START_SCAN from Idle: the request is sent and the transaction waits; any well-formed answer of that command ends
it in Scanning (rule R82; two events are decision D2, the ack's payload is D16, the transition at COMPLETE is D13). -/
def Obligations.StartScanCompletes : Prop :=
  ∀ s : State, s.inflight = none → s.session = .idle →
    exec .startScan s =
        .next { s with inflight := some .startScan, tx := s.tx ++ [[0xAA, 0x55, 0x60, 0x00, 0x5F]] } ∧
      ∀ payload : Bytes, payload.length ≤ 255 →
        presentRx (.burst (encodeFrame .startScan payload))
            { s with inflight := some .startScan, tx := s.tx ++ [[0xAA, 0x55, 0x60, 0x00, 0x5F]] } =
          .next { s with
            session := .scanning
            tx := s.tx ++ [[0xAA, 0x55, 0x60, 0x00, 0x5F]]
            res := s.res ++ [.ok .unit] }

/-- STOP_SCAN from Scanning (rule R83; decisions D2, D13, D16). -/
def Obligations.StopScanCompletes : Prop :=
  ∀ s : State, s.inflight = none → s.session = .scanning →
    exec .stopScan s =
        .next { s with inflight := some .stopScan, tx := s.tx ++ [[0xAA, 0x55, 0x61, 0x00, 0x60]] } ∧
      ∀ payload : Bytes, payload.length ≤ 255 →
        presentRx (.burst (encodeFrame .stopScan payload))
            { s with inflight := some .stopScan, tx := s.tx ++ [[0xAA, 0x55, 0x61, 0x00, 0x60]] } =
          .next { s with
            session := .idle
            tx := s.tx ++ [[0xAA, 0x55, 0x61, 0x00, 0x60]]
            res := s.res ++ [.ok .unit] }

/-- READ_SAMPLE in either state: nothing is sent; a frame of any command with at least four payload bytes is a sample,
with the distance low byte first; fewer bytes are a `MalformedFrame` (rules R84, R85, R134; decisions D2, D22, D27). -/
def Obligations.ReadSampleCompletes : Prop :=
  ∀ s : State, s.inflight = none →
    exec .readSample s = .next { s with inflight := some .readSample } ∧
      (∀ (c : CommandId) (lo hi intensity disturb : Byte) (more : Bytes), more.length ≤ 251 →
        ∃ d : Word16, d.toNat = lo.toNat + 256 * hi.toNat ∧
          presentRx (.burst (encodeFrame c (lo :: hi :: intensity :: disturb :: more)))
              { s with inflight := some .readSample } =
            .next { s with res := s.res ++ [.ok (.sample ⟨d, intensity, disturb⟩)] }) ∧
      (∀ (c : CommandId) (p : Bytes), p.length < 4 →
        presentRx (.burst (encodeFrame c p)) { s with inflight := some .readSample } =
          .next { s with res := s.res ++ [.fault .malformedFrame] })

/-- TEARDOWN in every state, whatever is in flight: a stop frame exactly when STATE = Scanning, the transaction in
flight abandoned without a result, never a fault (rules R86, R116; decision D23). -/
def Obligations.TeardownCompletes : Prop :=
  ∀ s : State,
    exec .teardown s =
      .next { s with
        session := .idle
        inflight := none
        tx := if s.session = .scanning then s.tx ++ [[0xAA, 0x55, 0x61, 0x00, 0x60]] else s.tx
        res := s.res ++ [.ok .unit] }

/-- TEARDOWN while a START_SCAN is in flight sends no stop frame (rule R132, derived there). -/
def Obligations.TeardownDuringStartScanSendsNothing : Prop :=
  ∀ (s t : State), s.inflight = none → s.session = .idle → exec .startScan s = .next t →
    exec .teardown t =
      .next { s with tx := s.tx ++ [[0xAA, 0x55, 0x60, 0x00, 0x5F]], res := s.res ++ [.ok .unit] }

/-- GET_DEVICE_INFO from Idle: the request, and every answer of that command: four fields and a serial number that is
the decimal numeral of the digit bytes, most significant first; a digit above 9 or fewer than four bytes are a
`MalformedFrame` (rules R88, R89, R90; the layout is decision D17, two events D2, the unbounded number D28). -/
def Obligations.GetDeviceInfoCompletes : Prop :=
  ∀ s : State, s.inflight = none → s.session = .idle →
    exec .getDeviceInfo s =
        .next { s with inflight := some .getDeviceInfo, tx := s.tx ++ [[0xAA, 0x55, 0x62, 0x00, 0x61]] } ∧
      (∀ (m h a b : Byte) (digits : Bytes), digits.length ≤ 251 → (∀ d ∈ digits, d.toNat ≤ 9) →
        presentRx (.burst (encodeFrame .getDeviceInfo (m :: h :: a :: b :: digits)))
            { s with inflight := some .getDeviceInfo } =
          .next { s with
            res := s.res ++
              [.ok (.version ⟨m, h, a, b, Nat.ofDigits 10 (digits.reverse.map BitVec.toNat)⟩)] }) ∧
      (∀ (m h a b : Byte) (digits : Bytes), digits.length ≤ 251 → (∃ d ∈ digits, 9 < d.toNat) →
        presentRx (.burst (encodeFrame .getDeviceInfo (m :: h :: a :: b :: digits)))
            { s with inflight := some .getDeviceInfo } =
          .next { s with res := s.res ++ [.fault .malformedFrame] }) ∧
      (∀ p : Bytes, p.length < 4 →
        presentRx (.burst (encodeFrame .getDeviceInfo p)) { s with inflight := some .getDeviceInfo } =
          .next { s with res := s.res ++ [.fault .malformedFrame] })

/-- `serial_parse` (rule R90): defined exactly where every byte is 0 to 9, and then the decimal numeral, below `10^k`
for `k` digits (unbounded: decision D28). -/
def Obligations.SerialNumberIsTheDecimalNumeral : Prop :=
  ∀ (digits : Bytes) (n : Nat),
    (serialParse digits = some n ↔
        (∀ d ∈ digits, d.toNat ≤ 9) ∧ n = Nat.ofDigits 10 (digits.reverse.map BitVec.toNat)) ∧
      (serialParse digits = some n → n < 10 ^ digits.length)

/-- SELF_TEST from Idle: the request, and every answer of that command: a pass exactly at flag 0x01, then the error
code and the diagnostic bytes as they came; any other flag is `SelfTestFailed` with the error code; fewer than two
bytes are a `MalformedFrame` (rules R91, R92; decisions D2, D18). -/
def Obligations.SelfTestCompletes : Prop :=
  ∀ s : State, s.inflight = none → s.session = .idle →
    exec .selfTest s =
        .next { s with inflight := some .selfTest, tx := s.tx ++ [[0xAA, 0x55, 0x63, 0x00, 0x62]] } ∧
      (∀ (flag code : Byte) (rest : Bytes), rest.length ≤ 253 →
        presentRx (.burst (encodeFrame .selfTest (flag :: code :: rest)))
            { s with inflight := some .selfTest } =
          .next { s with
            res := s.res ++ [if flag = 0x01 then .ok (.selfTest ⟨true, code, rest⟩)
              else .fault (.selfTestFailed code)] }) ∧
      (∀ p : Bytes, p.length < 2 →
        presentRx (.burst (encodeFrame .selfTest p)) { s with inflight := some .selfTest } =
          .next { s with res := s.res ++ [.fault .malformedFrame] })

/-- SET_OUTPUT_FREQ from Idle, for each of the six members: the request, and every answer of that command
(rules R93, R94; decisions D2, D12, D19). -/
def Obligations.SetOutputFreqCompletes : Prop :=
  ∀ (s : State) (f : OutputFrequency), s.inflight = none → s.session = .idle →
    exec (.setOutputFreq (freqByte f)) s =
        .next { s with
          inflight := some (.setOutputFreq f)
          tx := s.tx ++ [[0xAA, 0x55, 0x64, 0x01, freqByte f, 0x64 + freqByte f]] } ∧
      (∀ (echoed : Byte) (more : Bytes), more.length ≤ 254 →
        presentRx (.burst (encodeFrame .setOutputFreq (echoed :: more)))
            { s with inflight := some (.setOutputFreq f) } =
          .next { s with
            res := s.res ++ [if echoed = freqByte f then .ok .unit
              else .fault (.configurationRejected (freqByte f) echoed)] }) ∧
      presentRx (.burst (encodeFrame .setOutputFreq [])) { s with inflight := some (.setOutputFreq f) } =
        .next { s with res := s.res ++ [.fault .malformedFrame] }

/-- SET_FILTER from Idle, for both members (rules R93, R95; decisions D2, D12, D19). -/
def Obligations.SetFilterCompletes : Prop :=
  ∀ (s : State) (x : FilterState), s.inflight = none → s.session = .idle →
    exec (.setFilter (filterByte x)) s =
        .next { s with
          inflight := some (.setFilter x)
          tx := s.tx ++ [[0xAA, 0x55, 0x65, 0x01, filterByte x, 0x65 + filterByte x]] } ∧
      (∀ (echoed : Byte) (more : Bytes), more.length ≤ 254 →
        presentRx (.burst (encodeFrame .setFilter (echoed :: more)))
            { s with inflight := some (.setFilter x) } =
          .next { s with
            res := s.res ++ [if echoed = filterByte x then .ok .unit
              else .fault (.configurationRejected (filterByte x) echoed)] }) ∧
      presentRx (.burst (encodeFrame .setFilter [])) { s with inflight := some (.setFilter x) } =
        .next { s with res := s.res ++ [.fault .malformedFrame] }

/-- SET_SERIAL_BAUD from Idle, for both enabled rates (rules R93, R96; decisions D2, D12, D19). -/
def Obligations.SetSerialBaudCompletes : Prop :=
  ∀ (s : State) (b : BaudRate), s.inflight = none → s.session = .idle →
    exec (.setSerialBaud (baudByte b)) s =
        .next { s with
          inflight := some (.setSerialBaud b)
          tx := s.tx ++ [[0xAA, 0x55, 0x66, 0x01, baudByte b, 0x66 + baudByte b]] } ∧
      (∀ (echoed : Byte) (more : Bytes), more.length ≤ 254 →
        presentRx (.burst (encodeFrame .setSerialBaud (echoed :: more)))
            { s with inflight := some (.setSerialBaud b) } =
          .next { s with
            res := s.res ++ [if echoed = baudByte b then .ok .unit
              else .fault (.configurationRejected (baudByte b) echoed)] }) ∧
      presentRx (.burst (encodeFrame .setSerialBaud [])) { s with inflight := some (.setSerialBaud b) } =
        .next { s with res := s.res ++ [.fault .malformedFrame] }

/-- SET_FORMAT_OUTPUT_DATA with any operand and RESTORE_FACTORY_SETTINGS, from Idle: the request; the answer's payload
is returned as it came, with no echo check (rules R97, R98; decision D20). -/
def Obligations.FormatAndRestoreComplete : Prop :=
  ∀ s : State, s.inflight = none → s.session = .idle →
    (∀ v : Byte,
        exec (.setFormatOutputData v) s =
            .next { s with
              inflight := some (.setFormatOutputData v)
              tx := s.tx ++ [[0xAA, 0x55, 0x67, 0x01, v, 0x67 + v]] } ∧
          ∀ payload : Bytes, payload.length ≤ 255 →
            presentRx (.burst (encodeFrame .setFormatOutputData payload))
                { s with inflight := some (.setFormatOutputData v) } =
              .next { s with res := s.res ++ [.ok (.bytes payload)] }) ∧
      exec .restoreFactorySettings s =
        .next { s with
          inflight := some .restoreFactorySettings
          tx := s.tx ++ [[0xAA, 0x55, 0x68, 0x00, 0x67]] } ∧
      ∀ payload : Bytes, payload.length ≤ 255 →
        presentRx (.burst (encodeFrame .restoreFactorySettings payload))
            { s with inflight := some .restoreFactorySettings } =
          .next { s with res := s.res ++ [.ok (.bytes payload)] }

/-- ENCODE in either state: the frame's bytes on RES, nothing on TX, no state change; an operand that is no opcode, or
a payload over 255 bytes, is refused (rules R60, R55; decisions D6, D30). -/
def Obligations.EncodeCompletes : Prop :=
  ∀ (s : State) (c : CommandId) (p : Bytes), s.inflight = none →
    exec (.encode (opcode c) p) s =
        .next { s with
          res := s.res ++ [if p.length ≤ 255 then .ok (.bytes (encodeFrame c p))
            else .fault .illegalRequest] } ∧
      ∀ arg : Byte, (∀ d, opcode d ≠ arg) →
        exec (.encode arg p) s = .next { s with res := s.res ++ [.fault .illegalRequest] }

/-- DECODE in either state: the frame or the fault of `decode` on RES; nothing else changes; the empty sequence is a
`MalformedFrame`, and `NoDataReceived` never comes from here (rule R62; decisions D25, D30). -/
def Obligations.DecodeCompletes : Prop :=
  ∀ (s : State) (raw : Bytes), s.inflight = none →
    (∀ f, decodeFrame raw = .ok f →
        exec (.decode raw) s = .next { s with res := s.res ++ [.ok (.frame f)] }) ∧
      (∀ x, decodeFrame raw = .error x →
        exec (.decode raw) s = .next { s with res := s.res ++ [.fault x] } ∧ x ≠ .noDataReceived) ∧
      exec (.decode []) s = .next { s with res := s.res ++ [.fault .malformedFrame] }

/-! ## Answers and faults -/

/-- How a response is validated (rules R72, R112; the steps' faults and order are decisions D8, D11, D24, D25). -/
def Obligations.ResponseTestsInOrder : Prop :=
  ∀ t : Transaction,
    completeResult t .timeout = .fault .deviceUnresponsive ∧
      completeResult t (.burst []) = .fault .noDataReceived ∧
      (∀ raw x, raw ≠ [] → decodeFrame raw = .error x → completeResult t (.burst raw) = .fault x) ∧
      (∀ raw f c, decodeFrame raw = .ok f → cmdOf t = some c → f.command ≠ c →
        completeResult t (.burst raw) = .fault .malformedFrame) ∧
      (∀ raw f, decodeFrame raw = .ok f → (t = .readSample ∨ cmdOf t = some f.command) →
        completeResult t (.burst raw) = rspDecode t f.payload)

/-- Rule R103: an empty burst is the one cause of `NoDataReceived`, in every transaction; DECODE never raises it. -/
def Obligations.NoDataReceivedHasOneCause : Prop :=
  (∀ t ev, completeResult t ev = .fault .noDataReceived ↔ ev = .burst []) ∧
    ∀ data, decodeResult data ≠ .fault .noDataReceived

/-- Rule R106: the cause of `SelfTestFailed`, and that nothing but SELF_TEST raises it. -/
def Obligations.SelfTestFailedHasOneCause : Prop :=
  ∀ t ev code, completeResult t ev = .fault (.selfTestFailed code) ↔
    t = .selfTest ∧ ∃ raw f flag more, ev = .burst raw ∧ decodeFrame raw = .ok f ∧
      f.command = .selfTest ∧ f.payload = flag :: code :: more ∧ flag ≠ 0x01

/-- Rule R107: the cause of `ConfigurationRejected`: one of the three setters, an answer to it that passed every
earlier test, and a first payload byte that is not the byte sent. -/
def Obligations.ConfigurationRejectedHasOneCause : Prop :=
  ∀ t ev requested echoed,
    completeResult t ev = .fault (.configurationRejected requested echoed) ↔
      ((∃ f, t = .setOutputFreq f) ∨ (∃ x, t = .setFilter x) ∨ ∃ b, t = .setSerialBaud b) ∧
        ∃ raw f more, ev = .burst raw ∧ decodeFrame raw = .ok f ∧ cmdOf t = some f.command ∧
          reqPayload t = [requested] ∧ f.payload = echoed :: more ∧ echoed ≠ requested

/-- Which fault which transaction can deliver at COMPLETE, and that each can occur: the COMPLETE part of the matrix of
rule R110, derived there (with the decisions of rules R101 to R108). The RX events that may be presented are every
burst, and a timeout only where `HAS_TIMEOUT` is true (rule R108, rule R36 row 6, decision D24). The faults of the
guard and of ill-formed requests come before COMPLETE. -/
def Obligations.FailuresAtCompleteOfEachOperation : Prop :=
  ∀ (t : Transaction) (f : Failure),
    (∃ ev, (ev = .timeout → Config.hasTimeout = true) ∧ completeResult t ev = .fault f) ↔
    match f with
    | .malformedFrame => True
    | .checksumMismatch expected actual => expected ≠ actual
    | .noDataReceived => True
    | .operationNotAllowedWhileScanning => False
    | .operationRequiresScanning => False
    | .selfTestFailed _ => t = .selfTest
    | .configurationRejected requested echoed =>
      requested ≠ echoed ∧ reqPayload t = [requested] ∧ ∀ v, t ≠ .setFormatOutputData v
    | .deviceUnresponsive => Config.hasTimeout = true
    | .illegalRequest => False

/-- COMPLETE on a burst: INFLIGHT is cleared whatever the result, one result is delivered, STATE moves only on
success (rule R71; decisions D2, D13). `NothingToTake`: a waiting request that can be taken goes first, log entry 3. -/
def Obligations.CompleteClearsAndDelivers : Prop :=
  ∀ (s : State) (t : Transaction) (raw : Bytes) (rest : List HostEvent), s.inflight = some t →
    NothingToTake s → s.inputs = .rx (.burst raw) :: rest →
    step s = .next { s with
      inputs := rest
      inflight := none
      session := match completeResult t (.burst raw) with
        | .ok _ => nextState t s.session
        | .fault _ => s.session
      res := s.res ++ [completeResult t (.burst raw)] }

/-- A timeout ends the wait with `DeviceUnresponsive` where `HAS_TIMEOUT` is true (rule R108, decision D24); where it
is false the host may not present one, and the model stops (log entry 6). -/
def Obligations.TimeoutEndsTheWait : Prop :=
  ∀ (s : State) (t : Transaction), s.inflight = some t →
    presentRx .timeout s =
      if Config.hasTimeout then
        .next { s with inflight := none, res := s.res ++ [.fault .deviceUnresponsive] }
      else .fault .timeoutNotProvided

/-- Rule R113: in every step that delivers a fault, STATE is unchanged, INFLIGHT is `None` afterwards, and nothing is
sent or taken back. -/
def Obligations.FaultDeliveryKeepsStateAndClearsInflight : Prop :=
  ∀ (s s' : State) (f : Failure), step s = .next s' → s'.res = s.res ++ [.fault f] →
    s'.session = s.session ∧ s'.inflight = none ∧ s'.tx = s.tx

/-- Faults are precise: after a transaction that faults at COMPLETE, STATE and INFLIGHT are what they were before its
ISSUE, and one fault was delivered (rule R114, derived there). -/
def Obligations.FaultsArePrecise : Prop :=
  ∀ (i : Instr) (s t u : State) (ev : RxEvent) (f : Failure), s.inflight = none → i ≠ .teardown →
    exec i s = .next t → t.inflight.isSome → presentRx ev t = .next u → u.res = s.res ++ [.fault f] →
    u.session = s.session ∧ u.inflight = s.inflight ∧ u.opPort = s.opPort ∧ u.inputs = s.inputs

/-! ## Rules about the whole machine -/

/-- Rule R17: exactly four events write STATE, and each of them does. -/
def Obligations.OnlyFourEventsWriteState : Prop :=
  (∀ s s' : State, step s = .next s' → s'.session = s.session ∨
      (s'.session = .scanning ∧ s.inflight = some .startScan ∧ ∃ raw rest,
        s.inputs = .rx (.burst raw) :: rest ∧ completeResult .startScan (.burst raw) = .ok .unit) ∨
      (s'.session = .idle ∧ s.inflight = some .stopScan ∧ ∃ raw rest,
        s.inputs = .rx (.burst raw) :: rest ∧ completeResult .stopScan (.burst raw) = .ok .unit) ∨
      (s'.session = .idle ∧ ∃ r, r.opsel = 0x04 ∧
        (s.opPort = some r ∨ ∃ rest, s.inputs = .request r :: rest)) ∨
      (s'.session = .idle ∧ ∃ rest, s.inputs = .reset :: rest)) ∧
    (∀ s ev v, completeResult .startScan ev = .ok v → (complete .startScan ev s).session = .scanning) ∧
    (∀ s ev v, completeResult .stopScan ev = .ok v → (complete .stopScan ev s).session = .idle) ∧
    (∀ s : State, (teardown s).session = .idle) ∧
    ∀ s : State, (resetEvent s).session = .idle

/-- Which events write INFLIGHT (rule R19): only the ISSUE of a transaction sets it, that is, the taking of a request
that names the transaction, with nothing in flight and the guard passing; and only an RX event, RESET or a TEARDOWN
request clears it (the latch is decision D2). That an RX event and RESET are taken only where no waiting request can be
(`NothingToTake`, `Takes`) is the model's choice, log entry 3. -/
def Obligations.OnlyIssueSetsInflight : Prop :=
  ∀ s s' : State, step s = .next s' → s'.inflight = s.inflight ∨
    (s.inflight = none ∧ ∃ r i t, Takes s r ∧ decodeRequest r = .ok i ∧ transactionOf i = some t ∧
      guardOf Config.stopWhenIdle t s.session = .pass ∧ s'.inflight = some t) ∨
    (s.inflight.isSome ∧ s'.inflight = none ∧
      ((NothingToTake s ∧ ∃ ev rest, s.inputs = .rx ev :: rest) ∨
        (NothingToTake s ∧ ∃ rest, s.inputs = .reset :: rest) ∨
        ∃ r, Takes s r ∧ decodeRequest r = .ok .teardown))

/-- A step puts at most one burst on TX and at most one result on RES. A burst it puts there is one whole catalog
frame: the request of the transaction it issues, on a request it takes, with nothing in flight before and no result
yet; or the stop frame of a TEARDOWN request it takes in Scanning (rules R29, R77, R78). So nothing is ever sent
again, and nothing is sent on an RX event or on RESET. Which request a step takes (`Takes`) rests on log entry 3. -/
def Obligations.OneBurstAndOneResultAtMost : Prop :=
  ∀ s s' : State, step s = .next s' →
    (s'.res = s.res ∨ ∃ r, s'.res = s.res ++ [r]) ∧
      (s'.tx = s.tx ∨
        (s.inflight = none ∧ ∃ r i t c, Takes s r ∧ decodeRequest r = .ok i ∧ transactionOf i = some t ∧
          cmdOf t = some c ∧ s'.inflight = some t ∧ s'.res = s.res ∧
          s'.tx = s.tx ++ [encodeFrame c (reqPayload t)]) ∨
        (s.session = .scanning ∧ ∃ r, Takes s r ∧ decodeRequest r = .ok .teardown ∧ s'.session = .idle ∧
          s'.inflight = none ∧ s'.res = s.res ++ [.ok .unit] ∧
          s'.tx = s.tx ++ [encodeFrame .stopScan []]))

/-- No event reads an earlier output: with other outputs in the past, a step does the same and adds the same
(rule R15; that the model keeps the outputs at all is log entry 7). -/
def Obligations.StepsReadNoEarlierOutput : Prop :=
  ∀ (s : State) (a : List Bytes) (b : List Result),
    match step s with
    | .next t =>
      step { s with tx := a ++ s.tx, res := b ++ s.res } = .next { t with tx := a ++ t.tx, res := b ++ t.res }
    | .fault f => step { s with tx := a ++ s.tx, res := b ++ s.res } = .fault f
    | .refused r => step { s with tx := a ++ s.tx, res := b ++ s.res } = .refused r

/-- What no operation touches: the host's coming events; STATE, but for TEARDOWN; INFLIGHT, when something is in
flight, but for TEARDOWN; what already stands on TX and RES; the OP port, when nothing is in flight
(rules R17, R19, R74). -/
def Obligations.OperationFrame : Prop :=
  ∀ (i : Instr) (s t : State), exec i s = .next t →
    t.inputs = s.inputs ∧
      (i ≠ .teardown → t.session = s.session) ∧
      (i ≠ .teardown → s.inflight.isSome → t.inflight = s.inflight ∧ t.tx = s.tx ∧ t.res = s.res) ∧
      (s.inflight = none ∨ i = .teardown → t.opPort = s.opPort) ∧
      (transactionOf i = none → i ≠ .teardown → t.inflight = s.inflight ∧ t.tx = s.tx) ∧
      s.tx <+: t.tx ∧ s.res <+: t.res

/-- RESET (rule R123, decision D26), from every state in which no waiting request can be taken (log entry 3): STATE
Idle, INFLIGHT None, nothing emitted, nothing delivered; a TEARDOWN after it sends nothing (rule R125). -/
def Obligations.ResetEventClears : Prop :=
  ∀ (s : State) (rest : List HostEvent), NothingToTake s → s.inputs = .reset :: rest →
    step s = .next { s with session := .idle, inflight := none, inputs := rest } ∧
      exec .teardown { s with session := .idle, inflight := none, inputs := rest } =
        .next { s with session := .idle, inflight := none, inputs := rest, res := s.res ++ [.ok .unit] }

/-- The state after reset; STATE_OUT, which reads the current STATE in every state; and the bit that encodes STATE
(rules R16, R24, R124; INFLIGHT's value is decision D26, the bit is D3; the empty ports are log entries 2, 3 and 7,
STATE_OUT as a function of the state is log entry 18). -/
def Obligations.ResetState : Prop :=
  State.reset.session = .idle ∧ State.reset.inflight = none ∧ State.reset.opPort = none ∧
    State.reset.inputs = [] ∧ State.reset.tx = [] ∧ State.reset.res = [] ∧
    stateOut State.reset = .idle ∧ (∀ s : State, stateOut s = s.session) ∧ sessionBit .idle = 0 ∧ sessionBit .scanning = 1

/-- The RES record and its status codes (rules R100, R118; decision D5). -/
def Obligations.ResRecordOfEachResult : Prop :=
  (∀ v, resRecord (.ok v) = ⟨0, 0, 0, some v⟩) ∧
    resRecord (.fault .malformedFrame) = ⟨1, 0, 0, none⟩ ∧
    (∀ e a, resRecord (.fault (.checksumMismatch e a)) = ⟨2, e, a, none⟩) ∧
    resRecord (.fault .noDataReceived) = ⟨3, 0, 0, none⟩ ∧
    resRecord (.fault .operationNotAllowedWhileScanning) = ⟨4, 0, 0, none⟩ ∧
    resRecord (.fault .operationRequiresScanning) = ⟨5, 0, 0, none⟩ ∧
    (∀ c, resRecord (.fault (.selfTestFailed c)) = ⟨6, c, 0, none⟩) ∧
    (∀ r e, resRecord (.fault (.configurationRejected r e)) = ⟨7, r, e, none⟩) ∧
    resRecord (.fault .deviceUnresponsive) = ⟨8, 0, 0, none⟩ ∧
    resRecord (.fault .illegalRequest) = ⟨15, 0, 0, none⟩

/-- The invariant holds at reset. -/
def Obligations.InvariantHoldsAtReset : Prop := Inv State.reset

/-- Every step keeps the invariant: what is in flight is what STATE admits (rule R19, derived there), every burst on TX
is a whole catalog frame (rule R29), and no delivered self-test outcome says failed (rule R92, derived there). -/
def Obligations.EveryStepKeepsTheInvariant : Prop :=
  ∀ s s' : State, Inv s → step s = .next s' → Inv s'

/-- The two-event machine is the one-function machine: at rest, a request and, where the operation consumes one, the
RX event that answers it, lead to exactly the state, the burst and the result of the function `exec` of rule R75
(derived there; decision D2). A timeout counts only where `HAS_TIMEOUT` is true. -/
def Obligations.TwoEventsAreTheOneFunction : Prop :=
  ∀ (s : State) (i : Instr) (ev : RxEvent) (rest : List HostEvent), s.inflight = none → s.opPort = none →
    let whole := atomicExec Config.stopWhenIdle s.session i ev
    let after : State := { s with
      session := whole.session
      inputs := rest
      tx := if whole.tx = [] then s.tx else s.tx ++ [whole.tx]
      res := s.res ++ [whole.result] }
    (consumesRx Config.stopWhenIdle s.session i = false →
        step { s with inputs := .request (encodeRequest i) :: rest } = .next after) ∧
      (consumesRx Config.stopWhenIdle s.session i = true → ev ≠ .timeout ∨ Config.hasTimeout = true →
        ∃ between, step { s with inputs := .request (encodeRequest i) :: .rx ev :: rest } = .next between ∧
          between.session = s.session ∧ between.inflight = transactionOf i ∧ between.res = s.res ∧
          step between = .next after)
end

