-- ==== Sys2Proof/Laws/Codec.lean ====
section
/-! SUPPORT. Small facts about sums, lengths and the opcode table, and what ENCODE and DECODE can give. -/

namespace Sys2Proof.Machine

@[simp] theorem byteSum_nil : byteSum [] = 0 := rfl
@[simp] theorem byteSum_cons (b : Byte) (bs : Bytes) : byteSum (b :: bs) = b.toNat + byteSum bs := rfl

@[simp] theorem byteSum_append (a b : Bytes) : byteSum (a ++ b) = byteSum a + byteSum b := by
  induction a with
  | nil => simp
  | cons x xs ih => simp [ih, Nat.add_assoc]

theorem lsb_toNat (n : Nat) : (lsb n).toNat = n % 256 := by simp [lsb]

theorem lsb_toNat_of_le {n : Nat} (h : n ≤ 255) : (lsb n).toNat = n := by
  rw [lsb_toNat]; omega

@[simp] theorem frameBody_length (c : CommandId) (p : Bytes) : (frameBody c p).length = 4 + p.length := by
  simp [frameBody]; omega

@[simp] theorem encodeFrame_length (c : CommandId) (p : Bytes) : (encodeFrame c p).length = 5 + p.length := by
  simp [encodeFrame]; omega

/-- The reverse lookup finds the command whose opcode was looked up. -/
@[simp] theorem cmdOfOpcode_opcode (c : CommandId) : cmdOfOpcode (opcode c) = some c := by
  cases c <;> decide

/-- A byte the reverse lookup finds is that command's opcode. -/
theorem opcode_of_cmdOfOpcode {b : Byte} {c : CommandId} (h : cmdOfOpcode b = some c) : opcode c = b := by
  have := List.find?_some h
  simpa using this

/-- The opcode bytes of rule R51 are the ones the reverse lookup finds. -/
theorem isOpcodeByte_iff (b : Byte) : isOpcodeByte b = (cmdOfOpcode b).isSome := by
  revert b; decide

/-- ENCODE of an ill-formed operand is refused (rules R55, R109). -/
theorem encodeResult_illFormed {arg : Byte} {data : Bytes} (h : wellFormed (.encode arg data) = false) :
    encodeResult arg data = .fault .illegalRequest := by
  simp only [wellFormed, isOpcodeByte_iff, Bool.and_eq_false_iff, decide_eq_false_iff_not] at h
  unfold encodeResult
  cases hc : cmdOfOpcode arg with
  | none => rfl
  | some c => simp [hc] at h; simp [h]

/-- The results of ENCODE: bytes, or the refusal. -/
theorem encodeResult_cases (arg : Byte) (data : Bytes) :
    (∃ bs, encodeResult arg data = .ok (.bytes bs)) ∨ encodeResult arg data = .fault .illegalRequest := by
  unfold encodeResult
  split
  · exact .inr rfl
  · split
    · exact .inl ⟨_, rfl⟩
    · exact .inr rfl

/-- The faults `decode` can give (rule R61). -/
theorem decodeFrame_error {raw : Bytes} {x : Failure} (h : decodeFrame raw = .error x) :
    x = .malformedFrame ∨ ∃ e a, x = .checksumMismatch e a ∧ e ≠ a := by
  unfold decodeFrame at h
  simp only at h
  split at h
  · cases h; exact .inl rfl
  split at h
  · cases h; exact .inl rfl
  split at h
  · cases h; exact .inl rfl
  split at h
  · cases h; rename_i hne; exact .inr ⟨_, _, rfl, hne⟩
  split at h <;> cases h
  exact .inl rfl

/-- The results of DECODE: a frame, or one of the two faults of `decode`. -/
theorem decodeResult_cases (data : Bytes) :
    (∃ f, decodeResult data = .ok (.frame f)) ∨ decodeResult data = .fault .malformedFrame ∨
      ∃ e a, decodeResult data = .fault (.checksumMismatch e a) := by
  unfold decodeResult
  cases h : decodeFrame data with
  | ok f => exact .inl ⟨f, rfl⟩
  | error x =>
    obtain rfl | ⟨e, a, rfl, -⟩ := decodeFrame_error h
    · exact .inr (.inl rfl)
    · exact .inr (.inr ⟨e, a, rfl⟩)

@[simp] theorem freqOperand_freqByte (f : OutputFrequency) :
    freqOperand (freqByte f) = some (.setOutputFreq f) := by
  cases f <;> decide

@[simp] theorem filterOperand_filterByte (x : FilterState) :
    filterOperand (filterByte x) = some (.setFilter x) := by
  cases x <;> decide

@[simp] theorem baudOperand_baudByte (b : BaudRate) :
    baudOperand (baudByte b) = some (.setSerialBaud b) := by
  cases b <;> decide

end Sys2Proof.Machine
end

