-- ==== Sys2Proof/Laws/PerInstr.lean ====
section
/-! SUPPORT. Laws stated for every constructor of Instr. -/

namespace Sys2Proof.Laws.RequestRoundTrip

/-- The request record of an operation names that operation (rule R54), ill-formed operands included. -/
def Statement (i : Instr) : Prop := decodeRequest (encodeRequest i) = .ok i

theorem startScan : Statement .startScan := rfl
theorem stopScan : Statement .stopScan := rfl
theorem getDeviceInfo : Statement .getDeviceInfo := rfl
theorem selfTest : Statement .selfTest := rfl
theorem setOutputFreq (arg : Byte) : Statement (.setOutputFreq arg) := rfl
theorem setFilter (arg : Byte) : Statement (.setFilter arg) := rfl
theorem setSerialBaud (arg : Byte) : Statement (.setSerialBaud arg) := rfl
theorem setFormatOutputData (v : Byte) : Statement (.setFormatOutputData v) := rfl
theorem restoreFactorySettings : Statement .restoreFactorySettings := rfl
theorem encode (arg : Byte) (data : Bytes) : Statement (.encode arg data) := rfl
theorem decode (data : Bytes) : Statement (.decode data) := rfl
theorem readSample : Statement .readSample := rfl
theorem teardown : Statement .teardown := rfl

end Sys2Proof.Laws.RequestRoundTrip
end

