-- ==== Sys2Proof/Laws/Decode.lean ====
section
/-! SUPPORT. What a decoded request was. -/

namespace Sys2Proof

open Machine

/-- One test of a chain of tests: it holds and gives the answer, or the rest of the chain does. -/
theorem test_or_rest {α : Type} {b c : Byte} {x y : α} {rest : Except Reject α}
    (h : (if b = c then .ok x else rest) = Except.ok y) : (b = c ∧ x = y) ∨ rest = .ok y := by
  by_cases e : b = c
  · rw [if_pos e] at h; cases h; exact .inl ⟨e, rfl⟩
  · rw [if_neg e] at h; exact .inr h

/-- A request that names an operation carries that operation's OPSEL byte (rule R54). -/
theorem opsel_of_decodeRequest {r : Request} {i : Instr} (h : decodeRequest r = .ok i) :
    r.opsel = (encodeRequest i).opsel := by
  unfold decodeRequest at h
  iterate 13
    first
    | (obtain ⟨e, rfl⟩ | h := test_or_rest h; (exact e))
  cases h

/-- A request names TEARDOWN exactly by its OPSEL byte. -/
theorem decodeRequest_teardown_iff (r : Request) : decodeRequest r = .ok .teardown ↔ r.opsel = opselTeardown := by
  refine ⟨fun h => opsel_of_decodeRequest h, fun h => ?_⟩
  unfold decodeRequest
  rw [h]
  rfl

/-- A reserved OPSEL names no operation (rule R55). -/
theorem decodeRequest_reserved {r : Request}
    (h : r.opsel ∉ [0x01, 0x02, 0x03, 0x04, 0x60, 0x61, 0x62, 0x63, 0x64, 0x65, 0x66, 0x67, 0x68]) :
    decodeRequest r = .error (.reservedOpsel r.opsel) := by
  simp only [List.mem_cons, not_or] at h
  obtain ⟨h1, h2, h3, h4, h5, h6, h7, h8, h9, h10, h11, h12, h13, -⟩ := h
  unfold decodeRequest opselTeardown
  rw [if_neg h1, if_neg h2, if_neg h3, if_neg h4, if_neg h5, if_neg h6, if_neg h7, if_neg h8, if_neg h9,
    if_neg h10, if_neg h11, if_neg h12, if_neg h13]

end Sys2Proof
end

