-- ==== Sys2Proof/Laws/State.lean ====
section
/-! SUPPORT. One lemma for each field under each update of the state, all true by `rfl`. -/

namespace Sys2Proof.Machine

section
variable (s : State) (st : SessionState) (x : Option Transaction) (b : Bytes) (r : Result) (f : Failure)
  (n w : Nat)

@[simp] theorem setSession_session : (setSession st s).session = st := rfl
@[simp] theorem setSession_inflight : (setSession st s).inflight = s.inflight := rfl
@[simp] theorem setSession_opPort : (setSession st s).opPort = s.opPort := rfl
@[simp] theorem setSession_inputs : (setSession st s).inputs = s.inputs := rfl
@[simp] theorem setSession_tx : (setSession st s).tx = s.tx := rfl
@[simp] theorem setSession_res : (setSession st s).res = s.res := rfl

@[simp] theorem setInflight_session : (setInflight x s).session = s.session := rfl
@[simp] theorem setInflight_inflight : (setInflight x s).inflight = x := rfl
@[simp] theorem setInflight_opPort : (setInflight x s).opPort = s.opPort := rfl
@[simp] theorem setInflight_inputs : (setInflight x s).inputs = s.inputs := rfl
@[simp] theorem setInflight_tx : (setInflight x s).tx = s.tx := rfl
@[simp] theorem setInflight_res : (setInflight x s).res = s.res := rfl

@[simp] theorem emit_session : (emit b s).session = s.session := rfl
@[simp] theorem emit_inflight : (emit b s).inflight = s.inflight := rfl
@[simp] theorem emit_opPort : (emit b s).opPort = s.opPort := rfl
@[simp] theorem emit_inputs : (emit b s).inputs = s.inputs := rfl
@[simp] theorem emit_tx : (emit b s).tx = s.tx ++ [b] := rfl
@[simp] theorem emit_res : (emit b s).res = s.res := rfl

@[simp] theorem deliver_session : (deliver r s).session = s.session := rfl
@[simp] theorem deliver_inflight : (deliver r s).inflight = s.inflight := rfl
@[simp] theorem deliver_opPort : (deliver r s).opPort = s.opPort := rfl
@[simp] theorem deliver_inputs : (deliver r s).inputs = s.inputs := rfl
@[simp] theorem deliver_tx : (deliver r s).tx = s.tx := rfl
@[simp] theorem deliver_res : (deliver r s).res = s.res ++ [r] := rfl

@[simp] theorem raise_session : (raise f s).session = s.session := rfl
@[simp] theorem raise_inflight : (raise f s).inflight = none := rfl
@[simp] theorem raise_opPort : (raise f s).opPort = s.opPort := rfl
@[simp] theorem raise_inputs : (raise f s).inputs = s.inputs := rfl
@[simp] theorem raise_tx : (raise f s).tx = s.tx := rfl
@[simp] theorem raise_res : (raise f s).res = s.res ++ [.fault f] := rfl

@[simp] theorem refuse_session : (refuse s).session = s.session := rfl
@[simp] theorem refuse_inflight : (refuse s).inflight = none := rfl
@[simp] theorem refuse_opPort : (refuse s).opPort = s.opPort := rfl
@[simp] theorem refuse_inputs : (refuse s).inputs = s.inputs := rfl
@[simp] theorem refuse_tx : (refuse s).tx = s.tx := rfl
@[simp] theorem refuse_res : (refuse s).res = s.res ++ [.fault .illegalRequest] := rfl

@[simp] theorem resetEvent_session : (resetEvent s).session = .idle := rfl
@[simp] theorem resetEvent_inflight : (resetEvent s).inflight = none := rfl
@[simp] theorem resetEvent_opPort : (resetEvent s).opPort = s.opPort := rfl
@[simp] theorem resetEvent_inputs : (resetEvent s).inputs = s.inputs := rfl
@[simp] theorem resetEvent_tx : (resetEvent s).tx = s.tx := rfl
@[simp] theorem resetEvent_res : (resetEvent s).res = s.res := rfl

@[simp] theorem withFetchWord_session : (s.withFetchWord n w).session = s.session := rfl
@[simp] theorem withFetchWord_inflight : (s.withFetchWord n w).inflight = s.inflight := rfl
@[simp] theorem withFetchWord_opPort :
    (s.withFetchWord n w).opPort = some (requestOfTableWord n w) := rfl
@[simp] theorem withFetchWord_inputs : (s.withFetchWord n w).inputs = s.inputs := rfl
@[simp] theorem withFetchWord_tx : (s.withFetchWord n w).tx = s.tx := rfl
@[simp] theorem withFetchWord_res : (s.withFetchWord n w).res = s.res := rfl

@[simp] theorem stateOut_eq : stateOut s = s.session := rfl

end

/-- The session and the result of a TEARDOWN (rule R86), field by field. -/
@[simp] theorem teardown_session (s : State) : (teardown s).session = .idle := rfl
@[simp] theorem teardown_inflight (s : State) : (teardown s).inflight = none := rfl
@[simp] theorem teardown_opPort (s : State) : (teardown s).opPort = s.opPort := by
  unfold teardown; cases s.session <;> rfl
@[simp] theorem teardown_inputs (s : State) : (teardown s).inputs = s.inputs := by
  unfold teardown; cases s.session <;> rfl
@[simp] theorem teardown_res (s : State) : (teardown s).res = s.res ++ [.ok .unit] := by
  unfold teardown; cases s.session <;> rfl
theorem teardown_tx (s : State) :
    (teardown s).tx = if s.session = .scanning then s.tx ++ [encodeFrame .stopScan []] else s.tx := by
  unfold teardown; cases s.session <;> rfl

end Sys2Proof.Machine
end

