-- ==== Sys2Proof/Laws/Ops.lean ====
section
/-! SUPPORT. For each shared operation, once: everything it can do. -/

namespace Sys2Proof.Machine

/-- `send` puts the transaction's own frame on TX, or nothing for READ_SAMPLE. -/
theorem send_eq (t : Transaction) (s : State) :
    (cmdOf t = none ∧ send t s = s) ∨
      ∃ c, cmdOf t = some c ∧ send t s = { s with tx := s.tx ++ [encodeFrame c (reqPayload t)] } := by
  unfold send
  cases h : cmdOf t with
  | none => exact .inl ⟨rfl, rfl⟩
  | some c => exact .inr ⟨c, rfl, rfl⟩

/-- The three ways an ISSUE event can go. -/
theorem issue_cases (t : Transaction) (s : State) :
    (∃ f, guardOf Config.stopWhenIdle t s.session = .reject f ∧ issue t s = raise f s) ∨
      (guardOf Config.stopWhenIdle t s.session = .skip ∧ issue t s = deliver (.ok .unit) s) ∨
      (guardOf Config.stopWhenIdle t s.session = .pass ∧ issue t s = setInflight (some t) (send t s)) := by
  unfold issue
  cases h : guardOf Config.stopWhenIdle t s.session with
  | reject f => exact .inl ⟨f, rfl, rfl⟩
  | skip => exact .inr (.inl ⟨rfl, rfl⟩)
  | pass => exact .inr (.inr ⟨rfl, rfl⟩)

/-- The two ways a COMPLETE event can go. -/
theorem complete_cases (t : Transaction) (ev : RxEvent) (s : State) :
    (∃ v, completeResult t ev = .ok v ∧
        complete t ev s = { s with session := nextState t s.session, inflight := none, res := s.res ++ [.ok v] }) ∨
      ∃ f, completeResult t ev = .fault f ∧
        complete t ev s = { s with inflight := none, res := s.res ++ [.fault f] } := by
  unfold complete
  cases h : completeResult t ev with
  | ok v => exact .inl ⟨v, rfl, rfl⟩
  | fault f => exact .inr ⟨f, rfl, rfl⟩

/-- What a request does at the OP port: it is taken, it waits, or it breaks the host's duty. -/
theorem accept_cases (r : Request) (e : State → State) (s : State) :
    (s.inflight = none ∧ accept r e s = .next (e s)) ∨
      (s.inflight.isSome ∧ s.opPort = none ∧ accept r e s = .next { s with opPort := some r }) ∨
      (s.inflight.isSome ∧ s.opPort.isSome ∧ accept r e s = .fault .secondRequestAtPort) := by
  unfold accept hold
  cases hi : s.inflight with
  | none => exact .inl ⟨rfl, rfl⟩
  | some t =>
    cases hp : s.opPort with
    | none => exact .inr (.inl ⟨rfl, rfl, rfl⟩)
    | some q => exact .inr (.inr ⟨rfl, rfl, rfl⟩)

theorem accept_taken {r : Request} {e : State → State} {s : State} (h : s.inflight = none) :
    accept r e s = .next (e s) := by
  simp [accept, h]

/-- An operation, as the event its request causes: TEARDOWN always has its effect; every other operation is
`accept` of one effect, and that effect is an ISSUE, a refusal, or the delivery of a pure result. -/
theorem exec_cases (i : Instr) (s : State) :
    (i = .teardown ∧ exec i s = .next (teardown s)) ∨
      (i ≠ .teardown ∧ ∃ e : State → State, exec i s = accept (encodeRequest i) e s ∧
        ((∃ t, transactionOf i = some t ∧ operationEvent i = .issue t ∧ e = issue t) ∨
          (∃ arg data, i = .encode arg data ∧ e = deliver (encodeResult arg data)) ∨
          (∃ data, i = .decode data ∧ e = deliver (decodeResult data)) ∨
          (transactionOf i = none ∧ operationEvent i = .refusal ∧ e = refuse))) := by
  have operand : ∀ (j : Instr) (o : Option Transaction), j ≠ .teardown → transactionOf j = o →
      operationEvent j = issueEvent o → exec j s = accept (encodeRequest j) (issueOperand o) s →
      j ≠ .teardown ∧ ∃ e : State → State, exec j s = accept (encodeRequest j) e s ∧
        ((∃ t, transactionOf j = some t ∧ operationEvent j = .issue t ∧ e = issue t) ∨
          (∃ arg data, j = .encode arg data ∧ e = deliver (encodeResult arg data)) ∨
          (∃ data, j = .decode data ∧ e = deliver (decodeResult data)) ∨
          (transactionOf j = none ∧ operationEvent j = .refusal ∧ e = refuse)) := by
    intro j o hj ho hv he
    refine ⟨hj, issueOperand o, he, ?_⟩
    cases o with
    | none => exact .inr (.inr (.inr ⟨ho, hv, rfl⟩))
    | some t => exact .inl ⟨t, ho, hv, rfl⟩
  cases i with
  | teardown => exact .inl ⟨rfl, rfl⟩
  | setOutputFreq arg => exact .inr (operand _ _ (by simp) rfl rfl rfl)
  | setFilter arg => exact .inr (operand _ _ (by simp) rfl rfl rfl)
  | setSerialBaud arg => exact .inr (operand _ _ (by simp) rfl rfl rfl)
  | encode arg data => exact .inr ⟨by simp, _, rfl, .inr (.inl ⟨arg, data, rfl, rfl⟩)⟩
  | decode data => exact .inr ⟨by simp, _, rfl, .inr (.inr (.inl ⟨data, rfl, rfl⟩))⟩
  | startScan => exact .inr ⟨by simp, _, rfl, .inl ⟨_, rfl, rfl, rfl⟩⟩
  | stopScan => exact .inr ⟨by simp, _, rfl, .inl ⟨_, rfl, rfl, rfl⟩⟩
  | getDeviceInfo => exact .inr ⟨by simp, _, rfl, .inl ⟨_, rfl, rfl, rfl⟩⟩
  | selfTest => exact .inr ⟨by simp, _, rfl, .inl ⟨_, rfl, rfl, rfl⟩⟩
  | setFormatOutputData v => exact .inr ⟨by simp, _, rfl, .inl ⟨_, rfl, rfl, rfl⟩⟩
  | restoreFactorySettings => exact .inr ⟨by simp, _, rfl, .inl ⟨_, rfl, rfl, rfl⟩⟩
  | readSample => exact .inr ⟨by simp, _, rfl, .inl ⟨_, rfl, rfl, rfl⟩⟩

end Sys2Proof.Machine
end

