-- ==== Sys2Proof/Laws/Step.lean ====
section
/-! SUPPORT. Said once: everything a request can do (`Ran`, `ran`), everything a step can do (`Took`, `took`) and
every way a response can be judged (`Judged`, `judged`). A claim about all steps is a case analysis over these. -/

namespace Sys2Proof.Machine

/-- A state with nothing waiting at the OP port has nothing to take there. -/
theorem nothingToTake_of_none {s : State} (h : s.opPort = none) : NothingToTake s := by
  intro r hr
  simp [h] at hr

/-- Where no waiting request can be taken, the step takes the host's next event. -/
theorem step_of_nothingToTake {s : State} (h : NothingToTake s) : step s = presentNext s := by
  unfold step advance
  cases hp : s.opPort with
  | none => rfl
  | some r => simp [h r hp]

/-- Where the waiting request can be taken, the step takes it. -/
theorem step_of_canTake {s : State} {r : Request} (hr : s.opPort = some r) (h : canTake r s = true) :
    step s = runRequest r { s with opPort := none } := by
  simp [step, advance, hr, h]

/-- An ISSUE event touches neither STATE nor the OP port nor what the host presents. -/
theorem issue_frame (t : Transaction) (s : State) :
    (issue t s).session = s.session ∧ (issue t s).opPort = s.opPort ∧ (issue t s).inputs = s.inputs := by
  obtain ⟨f, _, h⟩ | ⟨_, h⟩ | ⟨_, h⟩ := issue_cases t s
  · simp [h]
  · simp [h]
  · rw [h]
    obtain ⟨_, h⟩ | ⟨c, _, h⟩ := send_eq t s <;> simp [h]

/-- A COMPLETE event clears INFLIGHT, sends nothing and delivers exactly the judged result. -/
theorem complete_frame (t : Transaction) (ev : RxEvent) (s : State) :
    (complete t ev s).inflight = none ∧ (complete t ev s).tx = s.tx ∧
      (complete t ev s).opPort = s.opPort ∧ (complete t ev s).inputs = s.inputs ∧
      (complete t ev s).res = s.res ++ [completeResult t ev] := by
  obtain ⟨v, h, e⟩ | ⟨v, h, e⟩ := complete_cases t ev s <;> simp [e, h]

/-- An RX event with nothing in flight. -/
theorem presentRx_none {ev : RxEvent} {s : State} (h : s.inflight = none) :
    presentRx ev s = .fault .rxWithNothingInFlight := by
  simp [presentRx, h]

/-- A burst completes the transaction in flight. -/
theorem presentRx_burst {raw : Bytes} {t : Transaction} {s : State} (h : s.inflight = some t) :
    presentRx (.burst raw) s = .next (complete t (.burst raw) s) := by
  simp [presentRx, h]

/-- A timeout completes the transaction in flight where the parameter allows timeouts. -/
theorem presentRx_timeout {t : Transaction} {s : State} (h : s.inflight = some t) :
    presentRx .timeout s =
      if Config.hasTimeout then .next (complete t .timeout s) else .fault .timeoutNotProvided := by
  simp [presentRx, h]

theorem eventAtRx_none {ev : RxEvent} {s : State} (h : s.inflight = none) : eventAtRx ev s = none := by
  simp [eventAtRx, h]

theorem eventAtRx_burst {raw : Bytes} {t : Transaction} {s : State} (h : s.inflight = some t) :
    eventAtRx (.burst raw) s = some (.complete t (.burst raw)) := by
  simp [eventAtRx, h]

theorem eventAtRx_timeout {t : Transaction} {s : State} (h : s.inflight = some t) :
    eventAtRx .timeout s = if Config.hasTimeout then some (.complete t .timeout) else none := by
  simp [eventAtRx, h]

/-- What running a request does: the event of rule R76 it is, if it is one, and the outcome. -/
inductive Ran (s : State) (r : Request) : Option Event → Host.Outcome State Fault Refusal → Prop
  /-- It is a TEARDOWN. -/
  | tornDown : decodeRequest r = .ok .teardown → r.opsel = opselTeardown →
      Ran s r (some .teardown) (.next (teardown s))
  /-- A transaction is issued. -/
  | issued (i : Instr) (t : Transaction) : decodeRequest r = .ok i → transactionOf i = some t →
      s.inflight = none → Ran s r (some (.issue t)) (.next (issue t s))
  /-- ENCODE. -/
  | encoded (arg : Byte) (data : Bytes) : decodeRequest r = .ok (.encode arg data) → s.inflight = none →
      Ran s r (some (.encode arg data)) (.next (deliver (encodeResult arg data) s))
  /-- DECODE. -/
  | decoded (data : Bytes) : decodeRequest r = .ok (.decode data) → s.inflight = none →
      Ran s r (some (.decode data)) (.next (deliver (decodeResult data) s))
  /-- The request is ill-formed. -/
  | refused : r.opsel ≠ opselTeardown → s.inflight = none →
      Ran s r (some .refusal) (.next (deliver (.fault .illegalRequest) s))
  /-- It waits: no event. -/
  | held (q : Request) : r.opsel ≠ opselTeardown → s.inflight.isSome → s.opPort = none → q.opsel = r.opsel →
      Ran s r none (.next { s with opPort := some q })
  /-- It is the second request at the port: no event. -/
  | stopped : r.opsel ≠ opselTeardown → s.inflight.isSome → s.opPort.isSome →
      Ran s r none (.fault .secondRequestAtPort)

/-- A request other than TEARDOWN is an event exactly when nothing is in flight. -/
theorem eventAtOp_eq {s : State} {r : Request} (hr : r.opsel ≠ opselTeardown) :
    eventAtOp r s = if s.inflight.isNone then some (requestEvent r) else none := by
  simp [eventAtOp, canTake, hr]

/-- One effect, as `accept` puts it at the OP port. -/
theorem ran_accept {s : State} {r q : Request} {e : State → State} (hr : r.opsel ≠ opselTeardown)
    (hq : q.opsel = r.opsel)
    (he : s.inflight = none → Ran s r (some (requestEvent r)) (.next (e s))) :
    Ran s r (eventAtOp r s) (accept q e s) := by
  rw [eventAtOp_eq hr]
  obtain ⟨hi, h⟩ | ⟨hi, hp, h⟩ | ⟨hi, hp, h⟩ := accept_cases q e s
  · rw [h, hi]; exact he hi
  · rw [h, if_neg (by simpa [Option.isNone_iff_eq_none, Option.isSome_iff_ne_none] using hi)]
    exact .held q hr hi hp hq
  · rw [h, if_neg (by simpa [Option.isNone_iff_eq_none, Option.isSome_iff_ne_none] using hi)]
    exact .stopped hr hi hp

/-- A refusal delivers `IllegalRequest` and nothing else. -/
theorem refuse_eq {s : State} (hi : s.inflight = none) : refuse s = deliver (.fault .illegalRequest) s := by
  simp [refuse, raise, setInflight, deliver, hi]

/-- Running a request has one of these outcomes. -/
theorem ran (s : State) (r : Request) : Ran s r (eventAtOp r s) (runRequest r s) := by
  unfold runRequest
  cases hd : decodeRequest r with
  | error x =>
    have hr : r.opsel ≠ opselTeardown := fun h => by
      rw [(decodeRequest_teardown_iff r).2 h] at hd; cases hd
    have hv : requestEvent r = .refusal := by simp [requestEvent, hd]
    exact ran_accept hr rfl fun hi => by rw [hv, refuse_eq hi]; exact .refused hr hi
  | ok i =>
    have ho := opsel_of_decodeRequest hd
    have hv : requestEvent r = operationEvent i := by simp [requestEvent, hd]
    obtain ⟨rfl, h⟩ | ⟨hne, e, he, hk⟩ := exec_cases i s
    · show Ran s r _ (exec .teardown s)
      have : eventAtOp r s = some .teardown := by
        rw [eventAtOp, hv]; simp [canTake, show r.opsel = opselTeardown from ho, operationEvent]
      rw [h, this]
      exact .tornDown hd ho
    · have hr : r.opsel ≠ opselTeardown := fun h => by
        rw [(decodeRequest_teardown_iff r).2 h] at hd; cases hd; exact hne rfl
      show Ran s r _ (exec i s)
      rw [he]
      refine ran_accept hr ho.symm fun hi => ?_
      rw [hv]
      obtain ⟨t, ht, hev, rfl⟩ | ⟨arg, data, rfl, rfl⟩ | ⟨data, rfl, rfl⟩ | ⟨-, hev, rfl⟩ := hk
      · rw [hev]; exact .issued i t hd ht hi
      · cases hw : wellFormed (.encode arg data) with
        | true => simp only [operationEvent, hw]; exact .encoded arg data hd hi
        | false =>
          rw [encodeResult_illFormed hw]
          simp only [operationEvent, hw]
          exact .refused hr hi
      · exact .decoded data hd hi
      · rw [hev, refuse_eq hi]; exact .refused hr hi

/-- What a step does: the event of rule R76 it takes, if it takes one, and the outcome. -/
inductive Took (s : State) : Option Event → Host.Outcome State Fault Refusal → Prop
  /-- The waiting request is taken. -/
  | waiting (r : Request) (e : Option Event) (o : Host.Outcome State Fault Refusal) : s.opPort = some r →
      canTake r s = true → Ran { s with opPort := none } r e o → Took s e o
  /-- Nothing is presented. -/
  | nothing : NothingToTake s → s.inputs = [] → Took s none (.next s)
  /-- The host presents a request. -/
  | request (r : Request) (rest : List HostEvent) (e : Option Event) (o : Host.Outcome State Fault Refusal) :
      NothingToTake s → s.inputs = .request r :: rest → Ran { s with inputs := rest } r e o → Took s e o
  /-- RESET. -/
  | reset (rest : List HostEvent) : NothingToTake s → s.inputs = .reset :: rest →
      Took s (some .reset) (.next (resetEvent { s with inputs := rest }))
  /-- An RX event ends the transaction in flight. -/
  | completed (t : Transaction) (ev : RxEvent) (rest : List HostEvent) : NothingToTake s →
      s.inputs = .rx ev :: rest → s.inflight = some t → (ev = .timeout → Config.hasTimeout = true) →
      Took s (some (.complete t ev)) (.next (complete t ev { s with inputs := rest }))
  /-- An RX event with nothing in flight: no event. -/
  | stray (ev : RxEvent) (rest : List HostEvent) : NothingToTake s → s.inputs = .rx ev :: rest →
      s.inflight = none → Took s none (.fault .rxWithNothingInFlight)
  /-- A timeout where the parameter rules timeouts out: no event. -/
  | noTimeout (t : Transaction) (rest : List HostEvent) : NothingToTake s → s.inputs = .rx .timeout :: rest →
      s.inflight = some t → Config.hasTimeout = false → Took s none (.fault .timeoutNotProvided)

/-- Where no waiting request can be taken, the event is that of the host. -/
theorem eventAt_of_nothingToTake {s : State} (h : NothingToTake s) : eventAt s = eventAtHost s := by
  unfold eventAt
  cases hp : s.opPort with
  | none => rfl
  | some r => simp [h r hp]

/-- A step does one of these. -/
theorem took (s : State) : Took s (eventAt s) (step s) := by
  by_cases hn : NothingToTake s
  · rw [step_of_nothingToTake hn, eventAt_of_nothingToTake hn]
    unfold presentNext eventAtHost
    cases hi : s.inputs with
    | nil => exact .nothing hn hi
    | cons e rest =>
      cases e with
      | request r => exact .request r rest _ _ hn hi (ran { s with inputs := rest } r)
      | reset => exact .reset rest hn hi
      | rx ev =>
        show Took s (eventAtRx ev s) (presentRx ev { s with inputs := rest })
        obtain hf | ⟨t, hf⟩ := Option.eq_none_or_eq_some s.inflight
        · rw [presentRx_none (s := { s with inputs := rest }) hf]
          rw [eventAtRx_none hf]
          exact .stray ev rest hn hi hf
        · cases ev with
          | burst raw =>
            rw [presentRx_burst (s := { s with inputs := rest }) hf, eventAtRx_burst hf]
            exact .completed t (.burst raw) rest hn hi hf (by simp)
          | timeout =>
            rw [presentRx_timeout (s := { s with inputs := rest }) hf, eventAtRx_timeout hf]
            split
            · rename_i ht; exact .completed t .timeout rest hn hi hf (fun _ => ht)
            · rename_i ht; exact .noTimeout t rest hn hi hf (by simpa using ht)
  · obtain ⟨r, h⟩ := not_forall.1 hn
    obtain ⟨hr, hc⟩ := Classical.not_imp.1 h
    rw [Bool.not_eq_false] at hc
    have : eventAt s = eventAtOp r { s with opPort := none } := by
      simp only [eventAt, hr, hc, if_pos]; rfl
    rw [step_of_canTake hr hc, this]
    exact .waiting r _ _ hr hc (ran _ r)

/-- The ways `completeResult` judges an RX event (rule R72). -/
inductive Judged (t : Transaction) : RxEvent → Result → Prop
  | timeout : Judged t .timeout (.fault .deviceUnresponsive)
  | empty : Judged t (.burst []) (.fault .noDataReceived)
  | broken (raw : Bytes) (x : Failure) : raw ≠ [] → decodeFrame raw = .error x →
      Judged t (.burst raw) (.fault x)
  | otherCommand (raw : Bytes) (f : Frame) : decodeFrame raw = .ok f → answers t f.command = false →
      Judged t (.burst raw) (.fault .malformedFrame)
  | decoded (raw : Bytes) (f : Frame) : decodeFrame raw = .ok f → answers t f.command = true →
      Judged t (.burst raw) (rspDecode t f.payload)

theorem judged (t : Transaction) (ev : RxEvent) : Judged t ev (completeResult t ev) := by
  cases ev with
  | timeout => exact .timeout
  | burst raw =>
    by_cases h0 : raw = []
    · subst h0; exact .empty
    · cases h : decodeFrame raw with
      | error x => simpa [completeResult, h0, h] using Judged.broken (t := t) raw x h0 h
      | ok f =>
        cases ha : answers t f.command with
        | true => simpa [completeResult, h0, h, ha] using Judged.decoded raw f h ha
        | false => simpa [completeResult, h0, h, ha] using Judged.otherCommand raw f h ha

end Sys2Proof.Machine
end

