-- ==== Sys2Proof/Laws/Runs.lean ====
section
/-! SUPPORT. How a run can end (rule R135): after an orderly end the state is (Idle, None), so a run that hangs or
leaves the device streaming has not ended in order. -/

namespace Sys2Proof.Machine

/-- A step without an event touches neither STATE nor INFLIGHT. -/
theorem step_noEvent {s s' : State} (he : eventAt s = none) (h : step s = .next s') :
    s'.session = s.session ∧ s'.inflight = s.inflight := by
  have ht := took s
  rw [he, h] at ht
  cases ht with
  | waiting r e o _ _ hr => cases hr; exact ⟨rfl, rfl⟩
  | nothing => exact ⟨rfl, rfl⟩
  | request r rest e o _ _ hr => cases hr; exact ⟨rfl, rfl⟩

/-- TEARDOWN ends at rest. -/
theorem step_teardown {s s' : State} (he : eventAt s = some .teardown) (h : step s = .next s') : AtRest s' := by
  have ht := took s
  rw [he, h] at ht
  cases ht with
  | waiting r e o _ _ hr => cases hr; exact ⟨rfl, rfl⟩
  | request r rest e o _ _ hr => cases hr; exact ⟨rfl, rfl⟩

/-- A refusal and a RESET keep a block at rest. -/
theorem step_noOperation {s s' : State} {e : Event} (he : eventAt s = some e) (hq : isOperationEvent e = false)
    (hs : AtRest s) (h : step s = .next s') : AtRest s' := by
  have ht := took s
  rw [he, h] at ht
  cases ht with
  | waiting r e o _ _ hr => cases hr <;> first | exact hs | cases hq
  | request r rest e o _ _ hr => cases hr <;> first | exact hs | cases hq
  | reset => exact ⟨rfl, rfl⟩
  | completed => cases hq

/-- The run of `k + 1` steps begins with a step that goes on. -/
theorem run_succ {k : Nat} {s t : State} (h : core.run (k + 1) s = .next t) :
    ∃ s', step s = .next s' ∧ core.run k s' = .next t := by
  cases hs : core.step s with
  | next s' =>
    simp only [Host.Core.run, hs] at h
    exact ⟨s', hs, h⟩
  | fault f => simp [Host.Core.run, hs] at h
  | refused f => simp [Host.Core.run, hs] at h

theorem eventsOf_succ {k : Nat} {s s' : State} (h : step s = .next s') :
    eventsOf (k + 1) s = (eventAt s).toList ++ eventsOf k s' := by
  simp [eventsOf, h]

/-- A run from rest in which no operation is issued stays at rest. -/
theorem atRest_of_noOperation {k : Nat} {s t : State} (hr : core.run k s = .next t) (hs : AtRest s)
    (hq : ∀ e ∈ eventsOf k s, isOperationEvent e = false) : AtRest t := by
  induction k generalizing s with
  | zero => cases hr; exact hs
  | succ k ih =>
    obtain ⟨s', h, hr⟩ := run_succ hr
    rw [eventsOf_succ h] at hq
    refine ih hr ?_ fun e he => hq e (List.mem_append_right _ he)
    cases he : eventAt s with
    | none =>
      obtain ⟨h1, h2⟩ := step_noEvent he h
      exact ⟨h1.trans hs.1, h2.trans hs.2⟩
    | some e => exact step_noOperation he (hq e (by simp [he])) hs h

/-- A run whose last event was TEARDOWN is at rest. -/
theorem atRest_of_lastTeardown {k : Nat} {s t : State} (hr : core.run k s = .next t)
    (hl : (eventsOf k s).getLast? = some .teardown) : AtRest t := by
  induction k generalizing s with
  | zero => cases hl
  | succ k ih =>
    obtain ⟨s', h, hr⟩ := run_succ hr
    rw [eventsOf_succ h] at hl
    cases hn : eventsOf k s' with
    | nil =>
      rw [hn, List.append_nil] at hl
      have he : eventAt s = some .teardown := by
        cases he : eventAt s with
        | none => simp [he] at hl
        | some e => simpa [he] using hl
      exact atRest_of_noOperation hr (step_teardown he h) (by simp [hn])
    | cons e es =>
      refine ih hr ?_
      rw [hn] at hl ⊢
      rwa [List.getLast?_append_of_ne_nil _ (by simp)] at hl

/-- Rule R135: where a run has ended in order, the state is (Idle, None). -/
theorem atRest_of_endedInOrder {k : Nat} {s t : State} (hr : core.run k s = .next t) (h : EndedInOrder k s) :
    AtRest t := by
  rcases h with h | ⟨hs, hq⟩
  · exact atRest_of_lastTeardown hr h
  · exact atRest_of_noOperation hr hs hq

/-- Rule R135: a run that hangs has not ended in order. -/
theorem not_endedInOrder_of_hung {k : Nat} {s t : State} (hr : core.run k s = .next t) (h : Hung t) :
    ¬ EndedInOrder k s := by
  intro he
  have := h.2
  rw [(atRest_of_endedInOrder hr he).2] at this
  cases this

/-- Rule R135: a run that stops in Scanning has not ended in order. -/
theorem not_endedInOrder_of_leftStreaming {k : Nat} {s t : State} (hr : core.run k s = .next t)
    (h : LeftStreaming t) : ¬ EndedInOrder k s := by
  intro he
  have := (atRest_of_endedInOrder hr he).1
  rw [h.2] at this
  cases this

/-- A run that has stopped stays where it is, for ever. -/
theorem run_of_stopped {s : State} (h : Stopped s) (k : Nat) : core.run k s = .next s := by
  have hs : core.step s = .next s := by
    show step s = _
    rw [step_of_nothingToTake h.1]
    rw [presentNext, h.2]
    rfl
  induction k with
  | zero => rfl
  | succ k ih => simp only [Host.Core.run, hs]; exact ih

end Sys2Proof.Machine
end

