-- ==== Sys2Proof/Tests/Slice0.lean ====
section
/-! SUPPORT. The model's own tests, all on small states and at most one step. The expected values are the spec's:
the tables of 30_encoding.md and the examples and vectors of 95_test_vectors.md (T1 to T8, V1 to V19), or a hand
calculation from a rule, named at each test. After them, for each obligation with hypotheses, a theorem that shows
values meeting the hypotheses of each of its clauses, at the ends of their ranges. -/

namespace Sys2Proof.Tests

open Machine

/-- At rest in a given STATE. -/
def resting (st : SessionState) : State := { State.reset with session := st }

/-- In a given STATE with a transaction in flight. -/
def waiting (st : SessionState) (t : Transaction) : State := { resting st with inflight := some t }

/-- With what the host presents. -/
def presenting (s : State) (es : List HostEvent) : State := { s with inputs := es }

/-- With a request at the OP port. -/
def holding (s : State) (r : Request) : State := { s with opPort := some r }

/-- What a test looks at after a step that goes on. -/
structure Seen where
  session : SessionState
  inflight : Option Transaction
  tx : List Bytes
  res : List Result
  deriving DecidableEq, Repr

/-- The same, of an outcome. -/
def seen : Host.Outcome State Fault Refusal → Option Seen
  | .next s => some ⟨s.session, s.inflight, s.tx, s.res⟩
  | .fault _ => none
  | .refused _ => none

/-! ## WellFormed: one ill-formed term for each check (rule R55), and the last good value beside it -/

theorem test_wf_freq : wellFormed (.setOutputFreq 0x06) = false ∧ wellFormed (.setOutputFreq 0x05) = true := by
  decide
theorem test_wf_filter : wellFormed (.setFilter 0x02) = false ∧ wellFormed (.setFilter 0x01) = true := by decide
theorem test_wf_baud : wellFormed (.setSerialBaud 0x02) = false ∧ wellFormed (.setSerialBaud 0x01) = true := by
  decide
theorem test_wf_encode_opcode : wellFormed (.encode 0x69 []) = false ∧ wellFormed (.encode 0x5F []) = false ∧
    wellFormed (.encode 0x68 []) = true ∧ wellFormed (.encode 0x60 []) = true := by decide
theorem test_wf_encode_length : wellFormed (.encode 0x60 (List.replicate 256 0)) = false ∧
    wellFormed (.encode 0x60 (List.replicate 255 0)) = true := by
  simp only [wellFormed, List.length_replicate]; decide

/-! ## Decoding: the words of rules R44, R49 and R54, written out in bits. First the request record (OPSEL, arg,
data), then, for a command, its wire frame (header, opcode, LEN, payload, checksum; the checksums are V1's). -/

theorem test_decode_startScan : decodeRequest ⟨0b01100000, 0, []⟩ = .ok .startScan ∧
    decodeWire [0b10101010, 0b01010101, 0b01100000, 0b00000000, 0b01011111] = .ok .startScan := ⟨rfl, rfl⟩
theorem test_decode_stopScan : decodeRequest ⟨0b01100001, 0, []⟩ = .ok .stopScan ∧
    decodeWire [0b10101010, 0b01010101, 0b01100001, 0b00000000, 0b01100000] = .ok .stopScan := ⟨rfl, rfl⟩
theorem test_decode_getDeviceInfo : decodeRequest ⟨0b01100010, 0, []⟩ = .ok .getDeviceInfo ∧
    decodeWire [0b10101010, 0b01010101, 0b01100010, 0b00000000, 0b01100001] = .ok .getDeviceInfo := ⟨rfl, rfl⟩
theorem test_decode_selfTest : decodeRequest ⟨0b01100011, 0, []⟩ = .ok .selfTest ∧
    decodeWire [0b10101010, 0b01010101, 0b01100011, 0b00000000, 0b01100010] = .ok .selfTest := ⟨rfl, rfl⟩
theorem test_decode_setOutputFreq : decodeRequest ⟨0b01100100, 0b00000011, []⟩ = .ok (.setOutputFreq 3) ∧
    decodeWire [0b10101010, 0b01010101, 0b01100100, 0b00000001, 0b00000011, 0b01100111] =
      .ok (.setOutputFreq 3) := ⟨rfl, rfl⟩
theorem test_decode_setFilter : decodeRequest ⟨0b01100101, 0b00000001, []⟩ = .ok (.setFilter 1) ∧
    decodeWire [0b10101010, 0b01010101, 0b01100101, 0b00000001, 0b00000001, 0b01100110] =
      .ok (.setFilter 1) := ⟨rfl, rfl⟩
theorem test_decode_setSerialBaud : decodeRequest ⟨0b01100110, 0b00000001, []⟩ = .ok (.setSerialBaud 1) ∧
    decodeWire [0b10101010, 0b01010101, 0b01100110, 0b00000001, 0b00000001, 0b01100111] =
      .ok (.setSerialBaud 1) := ⟨rfl, rfl⟩
theorem test_decode_setFormat : decodeRequest ⟨0b01100111, 0b11111111, []⟩ = .ok (.setFormatOutputData 255) ∧
    decodeWire [0b10101010, 0b01010101, 0b01100111, 0b00000001, 0b11111111, 0b01100110] =
      .ok (.setFormatOutputData 255) := ⟨rfl, rfl⟩
theorem test_decode_restore : decodeRequest ⟨0b01101000, 0, []⟩ = .ok .restoreFactorySettings ∧
    decodeWire [0b10101010, 0b01010101, 0b01101000, 0b00000000, 0b01100111] = .ok .restoreFactorySettings :=
  ⟨rfl, rfl⟩
theorem test_decode_encode : decodeRequest ⟨0b00000001, 0b01100000, [1, 2]⟩ = .ok (.encode 0x60 [1, 2]) := rfl
theorem test_decode_decode : decodeRequest ⟨0b00000010, 0, [1, 2]⟩ = .ok (.decode [1, 2]) := rfl
theorem test_decode_readSample : decodeRequest ⟨0b00000011, 0, []⟩ = .ok .readSample := rfl
theorem test_decode_teardown : decodeRequest ⟨0b00000100, 0, []⟩ = .ok .teardown := rfl

/-- Ignored fields are ignored (rule R54). -/
theorem test_decode_ignores : decodeRequest ⟨0x60, 0xFF, [1]⟩ = .ok .startScan ∧
    decodeRequest ⟨0x02, 0xFF, [1]⟩ = .ok (.decode [1]) := ⟨rfl, rfl⟩

/-- What names no operation is rejected by name: V18's reserved OPSEL values, a bad checksum (V8), a command frame
whose payload is not its request's (rule R49), a word of another width. -/
theorem test_decode_rejects :
    decodeRequest ⟨0x05, 0, []⟩ = .error (.reservedOpsel 0x05) ∧
      decodeRequest ⟨0x00, 0, []⟩ = .error (.reservedOpsel 0x00) ∧
      decodeRequest ⟨0x5F, 0, []⟩ = .error (.reservedOpsel 0x5F) ∧
      decodeRequest ⟨0x69, 0, []⟩ = .error (.reservedOpsel 0x69) ∧
      decodeRequest ⟨0xFF, 0, []⟩ = .error (.reservedOpsel 0xFF) ∧
      decodeWire [0xAA, 0x55, 0x60, 0x00, 0x5E] = .error (.notAFrame (.checksumMismatch 0x5F 0x5E)) ∧
      decodeWire [0xAA, 0x55, 0x60, 0x01, 0xA0, 0x00] = .error (.notARequest .startScan) ∧
      decodeTableWord 16 0xAA55 = none := ⟨rfl, rfl, rfl, rfl, rfl, rfl, rfl, rfl⟩

/-- The table's word at the OP port is what the next step runs (log entry 11). -/
theorem test_withFetchWord :
    seen (step (State.reset.withFetchWord 32 0xAA556000)) =
        some ⟨.idle, some .startScan, [[0xAA, 0x55, 0x60, 0x00, 0x5F]], []⟩ ∧
      seen (step (State.reset.withFetchWord 8 0x04)) = some ⟨.idle, none, [], [.ok .unit]⟩ := by decide

/-! ## The codec -/

/-- V2, V3: the checksum wraps. -/
theorem test_checksum : checksum [] = 0x00 ∧ checksum [0xFF] = 0xFF ∧ checksum [0xFF, 0xFF] = 0xFE ∧
    encodeFrame .setFormatOutputData [0x98] = [0xAA, 0x55, 0x67, 0x01, 0x98, 0xFF] ∧
    encodeFrame .setFormatOutputData [0x99] = [0xAA, 0x55, 0x67, 0x01, 0x99, 0x00] ∧
    encodeFrame .startScan [0xA0] = [0xAA, 0x55, 0x60, 0x01, 0xA0, 0x00] := by decide

/-- V8: lengths, header bytes, opcodes 0x5F and 0x00. -/
theorem test_decodeFrame_faults :
    decodeFrame [0xAA, 0x55, 0x60, 0x02, 0x10, 0x71] = .error .malformedFrame ∧
      decodeFrame [0xAA, 0x55, 0x69, 0x00, 0x67] = .error (.checksumMismatch 0x68 0x67) ∧
      decodeFrame [0xAA, 0x55, 0x5F, 0x00, 0x5E] = .error .malformedFrame ∧
      decodeFrame [0xAA, 0x55, 0x00, 0x00, 0xFF] = .error .malformedFrame := ⟨rfl, rfl, rfl, rfl⟩

/-! ## One step of each operation -/

/-- V9 (its request), V10. -/
theorem test_startScan :
    seen (step (presenting (resting .idle) [.request ⟨0x60, 0, []⟩])) =
        some ⟨.idle, some .startScan, [[0xAA, 0x55, 0x60, 0x00, 0x5F]], []⟩ ∧
      seen (step (presenting (resting .scanning) [.request ⟨0x60, 0, []⟩])) =
        some ⟨.scanning, none, [], [.fault .operationNotAllowedWhileScanning]⟩ := by decide

/-- V11, V9: an ack with a payload; an answer to another command. -/
theorem test_startScan_ack :
    seen (step (presenting (waiting .idle .startScan)
        [.rx (.burst [0xAA, 0x55, 0x60, 0x04, 0x10, 0x01, 0x32, 0x00, 0xA6])])) =
        some ⟨.scanning, none, [], [.ok .unit]⟩ ∧
      seen (step (presenting (waiting .idle .startScan) [.rx (.burst [0xAA, 0x55, 0x61, 0x00, 0x60])])) =
        some ⟨.idle, none, [], [.fault .malformedFrame]⟩ := by decide

/-- V10: STOP_SCAN in Idle, for both values of the parameter. -/
theorem test_stopScan_idle :
    guardOf .reject .stopScan .idle = .reject .operationRequiresScanning ∧
      guardOf .noOp .stopScan .idle = .skip := by decide

/-- V12: the response, and a sample in its place. -/
theorem test_stopScan_ack :
    seen (step (presenting (waiting .scanning .stopScan) [.rx (.burst [0xAA, 0x55, 0x61, 0x00, 0x60])])) =
        some ⟨.idle, none, [], [.ok .unit]⟩ ∧
      seen (step (presenting (waiting .scanning .stopScan)
        [.rx (.burst [0xAA, 0x55, 0x60, 0x04, 0x10, 0x01, 0x32, 0x00, 0xA6])])) =
        some ⟨.scanning, none, [], [.fault .malformedFrame]⟩ := by decide

/-- V13: nothing is sent; T7's sample, and 1234 mm. -/
theorem test_readSample :
    seen (step (presenting (resting .idle) [.request ⟨0x03, 0, []⟩])) = some ⟨.idle, some .readSample, [], []⟩ ∧
      seen (step (presenting (waiting .scanning .readSample)
        [.rx (.burst [0xAA, 0x55, 0x60, 0x04, 0xD2, 0x04, 0x64, 0x02, 0x9F])])) =
        some ⟨.scanning, none, [], [.ok (.sample ⟨1234, 100, 2⟩)]⟩ := by decide

/-- V13: any command's frame in Idle; the fifth byte ignored; three bytes. -/
theorem test_readSample_frames :
    completeResult .readSample (.burst [0xAA, 0x55, 0x61, 0x04, 0x10, 0x01, 0x32, 0x00, 0xA7]) =
        .ok (.sample ⟨272, 50, 0⟩) ∧
      completeResult .readSample (.burst [0xAA, 0x55, 0x60, 0x05, 0x10, 0x01, 0x32, 0x00, 0x99, 0x40]) =
        .ok (.sample ⟨272, 50, 0⟩) ∧
      completeResult .readSample (.burst [0xAA, 0x55, 0x60, 0x03, 0x10, 0x01, 0x32, 0xA5]) =
        .fault .malformedFrame := by decide

/-- T8, V14. -/
theorem test_teardown :
    seen (step (presenting (waiting .scanning .readSample) [.request ⟨0x04, 0, []⟩])) =
        some ⟨.idle, none, [[0xAA, 0x55, 0x61, 0x00, 0x60]], [.ok .unit]⟩ ∧
      seen (step (presenting (resting .idle) [.request ⟨0x04, 0, []⟩])) =
        some ⟨.idle, none, [], [.ok .unit]⟩ := by decide

/-- V15: the request; leading zero digits; the digit 0x0A; three bytes. -/
theorem test_getDeviceInfo :
    seen (step (presenting (resting .idle) [.request ⟨0x62, 0, []⟩])) =
        some ⟨.idle, some .getDeviceInfo, [[0xAA, 0x55, 0x62, 0x00, 0x61]], []⟩ ∧
      completeResult .getDeviceInfo (.burst
        [0xAA, 0x55, 0x62, 0x07, 0x0F, 0x01, 0x01, 0x02, 0x00, 0x00, 0x07, 0x82]) =
        .ok (.version ⟨0x0F, 0x01, 0x01, 0x02, 7⟩) ∧
      completeResult .getDeviceInfo (.burst [0xAA, 0x55, 0x62, 0x06, 0x0F, 0x01, 0x01, 0x02, 0x01, 0x0A, 0x85]) =
        .fault .malformedFrame ∧
      completeResult .getDeviceInfo (.burst [0xAA, 0x55, 0x62, 0x03, 0x0F, 0x01, 0x01, 0x75]) =
        .fault .malformedFrame := by decide

/-- V15: the serial number of sixteen digits. -/
theorem test_getDeviceInfo_serial :
    completeResult .getDeviceInfo (.burst [0xAA, 0x55, 0x62, 0x14, 0x0F, 0x01, 0x01, 0x02, 0x01, 0x02, 0x03, 0x04,
      0x05, 0x06, 0x07, 0x08, 0x09, 0x00, 0x01, 0x02, 0x03, 0x04, 0x05, 0x06, 0xCA]) =
      .ok (.version ⟨0x0F, 0x01, 0x01, 0x02, 1234567890123456⟩) := by rfl

/-- V16. -/
theorem test_selfTest :
    completeResult .selfTest (.burst [0xAA, 0x55, 0x63, 0x04, 0x01, 0x00, 0xDE, 0xAD, 0xF2]) =
        .ok (.selfTest ⟨true, 0x00, [0xDE, 0xAD]⟩) ∧
      completeResult .selfTest (.burst [0xAA, 0x55, 0x63, 0x03, 0x00, 0x07, 0x11, 0x7D]) =
        .fault (.selfTestFailed 0x07) ∧
      completeResult .selfTest (.burst [0xAA, 0x55, 0x63, 0x02, 0x02, 0x00, 0x66]) =
        .fault (.selfTestFailed 0x00) ∧
      completeResult .selfTest (.burst [0xAA, 0x55, 0x63, 0x01, 0x01, 0x64]) = .fault .malformedFrame := by decide

/-- T6: the echo 0x03 and the echo 0x02. -/
theorem test_setOutputFreq :
    seen (step (presenting (waiting .idle (.setOutputFreq .freq500Hz))
        [.rx (.burst [0xAA, 0x55, 0x64, 0x01, 0x03, 0x67])])) = some ⟨.idle, none, [], [.ok .unit]⟩ ∧
      seen (step (presenting (waiting .idle (.setOutputFreq .freq500Hz))
        [.rx (.burst [0xAA, 0x55, 0x64, 0x01, 0x02, 0x66])])) =
        some ⟨.idle, none, [], [.fault (.configurationRejected 0x03 0x02)]⟩ := by decide

/-- V17. -/
theorem test_setFilter :
    seen (step (presenting (resting .idle) [.request ⟨0x65, 0x00, []⟩])) =
        some ⟨.idle, some (.setFilter .off), [[0xAA, 0x55, 0x65, 0x01, 0x00, 0x65]], []⟩ ∧
      completeResult (.setFilter .on) (.burst [0xAA, 0x55, 0x65, 0x00, 0x64]) = .fault .malformedFrame ∧
      completeResult (.setFilter .on) (.burst [0xAA, 0x55, 0x65, 0x02, 0x01, 0xFF, 0x66]) = .ok .unit := by decide

/-- V17, V18: an echoed reserved code; a reserved code asked for, in Scanning too. -/
theorem test_setSerialBaud :
    completeResult (.setSerialBaud .baud230400) (.burst [0xAA, 0x55, 0x66, 0x01, 0x02, 0x68]) =
        .fault (.configurationRejected 0x00 0x02) ∧
      seen (step (presenting (resting .scanning) [.request ⟨0x66, 0x02, []⟩])) =
        some ⟨.scanning, none, [], [.fault .illegalRequest]⟩ := by decide

/-- V17: no echo check. -/
theorem test_setFormat :
    seen (step (presenting (resting .idle) [.request ⟨0x67, 0x01, []⟩])) =
        some ⟨.idle, some (.setFormatOutputData 0x01), [[0xAA, 0x55, 0x67, 0x01, 0x01, 0x68]], []⟩ ∧
      completeResult (.setFormatOutputData 0x01) (.burst [0xAA, 0x55, 0x67, 0x00, 0x66]) =
        .ok (.bytes []) := by decide

/-- V17. -/
theorem test_restore :
    seen (step (presenting (waiting .idle .restoreFactorySettings)
        [.rx (.burst [0xAA, 0x55, 0x68, 0x00, 0x67])])) = some ⟨.idle, none, [], [.ok (.bytes [])]⟩ := by decide

/-- V4, V18. -/
theorem test_encode :
    seen (step (presenting (resting .scanning) [.request ⟨0x01, 0x65, [0x01]⟩])) =
        some ⟨.scanning, none, [], [.ok (.bytes [0xAA, 0x55, 0x65, 0x01, 0x01, 0x66])]⟩ ∧
      seen (step (presenting (resting .idle) [.request ⟨0x01, 0x69, []⟩])) =
        some ⟨.idle, none, [], [.fault .illegalRequest]⟩ := by decide

/-- V7, V8. -/
theorem test_decode :
    seen (step (presenting (resting .idle) [.request ⟨0x02, 0, [0xAA, 0x55, 0x64, 0x01, 0x9C, 0x00]⟩])) =
        some ⟨.idle, none, [], [.ok (.frame ⟨.setOutputFreq, [0x9C], 0x00⟩)]⟩ ∧
      seen (step (presenting (resting .idle) [.request ⟨0x02, 0, []⟩])) =
        some ⟨.idle, none, [], [.fault .malformedFrame]⟩ := by decide

/-! ## The ports -/

/-- V18: a reserved OPSEL. -/
theorem test_reserved_opsel :
    seen (step (presenting (resting .scanning) [.request ⟨0x69, 0, []⟩])) =
      some ⟨.scanning, none, [], [.fault .illegalRequest]⟩ := by decide

/-- V19. -/
theorem test_reset : seen (step (presenting (waiting .scanning .readSample) [.reset])) =
    some ⟨.idle, none, [], []⟩ := by decide

/-- P4, line 4: the request waits; and line 6: the held request is taken before anything else. -/
theorem test_held_request :
    step (presenting (waiting .scanning .readSample) [.request ⟨0x62, 0, []⟩]) =
        .next (holding (waiting .scanning .readSample) ⟨0x62, 0, []⟩) ∧
      seen (step (holding (presenting (resting .idle) [.reset]) ⟨0x62, 0, []⟩)) =
        some ⟨.idle, some .getDeviceInfo, [[0xAA, 0x55, 0x62, 0x00, 0x61]], []⟩ := ⟨rfl, by decide⟩

/-- V9: an empty burst, and a timeout. -/
theorem test_no_answer :
    completeResult .startScan (.burst []) = .fault .noDataReceived ∧
      completeResult .startScan .timeout = .fault .deviceUnresponsive := by decide

/-- Rule R118, by hand: the record of a rejected setting. -/
theorem test_resRecord : resRecord (.fault (.configurationRejected 0x03 0x02)) = ⟨7, 0x03, 0x02, none⟩ := by decide

/-- The two duties a test can show broken without the parameter (rule R36 rows 1 and 5). -/
theorem test_broken_duties :
    step (presenting (resting .idle) [.rx (.burst [])]) = .fault .rxWithNothingInFlight ∧
      step (presenting (holding (waiting .idle .selfTest) ⟨0x62, 0, []⟩) [.request ⟨0x63, 0, []⟩]) =
        .fault .secondRequestAtPort := ⟨rfl, rfl⟩

/-- Rule R76: the event of a step; a request that only comes to wait is none (P4 line 4). -/
theorem test_eventAt :
    eventAt (presenting (waiting .scanning .readSample) [.request ⟨0x62, 0, []⟩]) = none ∧
      eventAt (holding (resting .idle) ⟨0x62, 0, []⟩) = some (.issue .getDeviceInfo) ∧
      eventAt (holding (resting .idle) ⟨0x64, 0x06, []⟩) = some .refusal ∧
      eventAt (presenting (waiting .idle .selfTest) [.rx (.burst [])]) = some (.complete .selfTest (.burst [])) := by
  decide

/-- Rule R135: a run whose one event is TEARDOWN has ended in order, and so has a run without any. -/
theorem test_endedInOrder :
    EndedInOrder 1 (presenting (resting .scanning) [.request ⟨0x04, 0, []⟩]) ∧ EndedInOrder 5 State.reset :=
  ⟨.inl (by decide), .inr ⟨⟨rfl, rfl⟩, by decide⟩⟩

/-- Rule R135, decision D23: after a COMPLETE or a RESET the state is (Idle, None), and the run has not ended in
order. -/
theorem test_atRest_not_ended :
    seen (step (presenting (waiting .idle .selfTest) [.rx (.burst [])])) =
        some ⟨.idle, none, [], [.fault .noDataReceived]⟩ ∧
      ¬ EndedInOrder 1 (presenting (waiting .idle .selfTest) [.rx (.burst [])]) ∧
      ¬ EndedInOrder 1 (presenting (waiting .idle .selfTest) [.reset]) := by
  refine ⟨by decide, ?_, ?_⟩ <;>
    (rintro (h | ⟨h, -⟩)
     · revert h; decide
     · cases h.2)

/-- P4 stopped after line 4: hung, with a request that waits behind the transaction. -/
theorem test_hung : Hung (holding (waiting .scanning .readSample) ⟨0x62, 0, []⟩) ∧
    LeftStreaming (holding (waiting .scanning .readSample) ⟨0x62, 0, []⟩) := by
  have h : Stopped (holding (waiting .scanning .readSample) ⟨0x62, 0, []⟩) :=
    ⟨fun r hr => by cases hr; rfl, rfl⟩
  exact ⟨⟨h, rfl⟩, ⟨h, rfl⟩⟩

/-! ## Witnesses: values that meet the hypotheses of each obligation, clause by clause -/

/-- The longest payload. -/
def longest : Bytes := List.replicate 255 0xFF

theorem length_longest : longest.length = 255 := List.length_replicate

/-- START_SCAN's request. -/
def startRequest : Request := ⟨0x60, 0, []⟩

/-- In flight, with a request that waits: nothing can be taken at the OP port. -/
theorem nothingToTake_holding : NothingToTake (holding (waiting .scanning .readSample) startRequest) := by
  intro r h; cases h; rfl

/-- In flight, with nothing at the OP port. -/
theorem nothingToTake_waiting (st : SessionState) (t : Transaction) (es : List HostEvent) :
    NothingToTake (presenting (waiting st t) es) := nothingToTake_of_none rfl

theorem witness_ChecksumIsTheSumModulo256 : List.Perm [(0xAA : Byte), 0x55, 0x60] [0x60, 0xAA, 0x55] := by decide

theorem witness_ChecksumArithmetic : longest.length ≤ 255 ∧ ([] : Bytes).length ≤ 255 ∧ (0x00 : Byte) ≠ 0xFF :=
  ⟨length_longest.le, by decide, by decide⟩

theorem witness_EncodeBuildsTheFrame : longest.length ≤ 255 ∧ ([] : Bytes).length ≤ 255 :=
  ⟨length_longest.le, by decide⟩

theorem witness_DecodeTestsLengthHeaderChecksumOpcode :
    ([] : Bytes).length < 5 ∧ ([0xAA, 0x55, 0x60, 0x00] : Bytes).length < 5 := by decide

theorem witness_DecodeAndEncodeAgree : longest.length ≤ 255 ∧
    decodeFrame [0xAA, 0x55, 0x60, 0x00, 0x5F] = .ok ⟨.startScan, [], 0x5F⟩ ∧
    encodeFrame .startScan [] = encodeFrame .startScan [] := ⟨length_longest.le, rfl, rfl⟩

theorem witness_CorruptedLastByteIsReported :
    decodeFrame ([0xAA, 0x55, 0x60, 0x00] ++ [0x5F]) = .ok ⟨.startScan, [], 0x5F⟩ ∧ (0x5E : Byte) ≠ 0x5F :=
  ⟨rfl, by decide⟩

theorem witness_OneBurstHoldsExactlyOneFrame : longest.length ≤ 255 ∧ ([0x00] : Bytes) ≠ [] ∧
    0 < (encodeFrame .startScan longest).length ∧ 259 < (encodeFrame .startScan longest).length := by
  simp [length_longest]

theorem witness_RequestFramesOfTheCatalog :
    transactionOf .startScan = some .startScan ∧ cmdOf .startScan = some .startScan ∧
      transactionOf (.setOutputFreq 0x05) = some (.setOutputFreq .freq1800Hz) ∧
      cmdOf (.setOutputFreq .freq1800Hz) = some .setOutputFreq := ⟨rfl, rfl, rfl, rfl⟩

theorem witness_InstructionEncodingsRoundTrip :
    encodeWire (.setFilter 0xFF) = some [0xAA, 0x55, 0x65, 0x01, 0xFF, 0x64] ∧
      decodeWire [0xAA, 0x55, 0x65, 0x01, 0xFF, 0x64] = .ok (.setFilter 0xFF) ∧
      encodeRequest .startScan = encodeRequest .startScan := ⟨rfl, rfl, rfl⟩

/-- The states of the three cases, for any request: presented, waiting, presented behind a transaction. -/
theorem witness_IllFormedRequestsAreRefused_states (r : Request) :
    ((presenting (resting .scanning) [.request r]).inflight = none ∧
        (presenting (resting .scanning) [.request r]).opPort = none ∧
        (presenting (resting .scanning) [.request r]).inputs = .request r :: []) ∧
      ((holding (resting .scanning) r).inflight = none ∧ (holding (resting .scanning) r).opPort = some r) ∧
      ((presenting (waiting .idle .selfTest) [.request r]).inflight.isSome ∧
        (presenting (waiting .idle .selfTest) [.request r]).opPort = none) :=
  ⟨⟨rfl, rfl, rfl⟩, ⟨rfl, rfl⟩, ⟨rfl, rfl⟩⟩

/-- A request for each clause of rule R55, at the end of its range. -/
theorem witness_IllFormedRequestsAreRefused : (0x05 : Byte) ∉ assignedOpsels ∧ (0x69 : Byte) ∉ assignedOpsels ∧
    IllFormedRequest ⟨0x05, 0, []⟩ ∧ IllFormedRequest ⟨0x01, 0x5F, []⟩ ∧ IllFormedRequest ⟨0x01, 0x69, []⟩ ∧
    IllFormedRequest ⟨0x01, 0x60, 0x00 :: longest⟩ ∧ IllFormedRequest ⟨0x64, 0x06, []⟩ ∧
    IllFormedRequest ⟨0x65, 0x02, []⟩ ∧ IllFormedRequest ⟨0x66, 0x02, []⟩ := by
  simp [IllFormedRequest, assignedOpsels, length_longest]

theorem witness_IllegalRequestExactlyWhenIllFormed : (resting .scanning).inflight = none := rfl

theorem witness_StepRunsTheDecodedInstruction :
    ((holding (resting .idle) startRequest).opPort = some startRequest ∧
        (holding (resting .idle) startRequest).inflight = none ∧ decodeRequest startRequest = .ok .startScan) ∧
      ((holding (waiting .idle .selfTest) ⟨0x04, 0, []⟩).opPort = some ⟨0x04, 0, []⟩ ∧
        decodeRequest ⟨0x04, 0, []⟩ = .ok .teardown) ∧
      (NothingToTake (presenting (waiting .idle .selfTest) [.request startRequest]) ∧
        (presenting (waiting .idle .selfTest) [.request startRequest]).inputs = .request startRequest :: []) ∧
      NothingToTake (holding (waiting .scanning .readSample) startRequest) ∧
      decodeTableWord 32 0xAA556000 = some .startScan ∧ decodeTableWord 8 0x04 = some .teardown :=
  ⟨⟨rfl, rfl, rfl⟩, ⟨rfl, rfl⟩, ⟨nothingToTake_waiting _ _ _, rfl⟩, nothingToTake_holding, rfl, rfl⟩

theorem witness_RequestsWaitWhileInFlight : (waiting .idle .selfTest).inflight.isSome ∧
    (waiting .idle .selfTest).opPort = none ∧ Instr.encode 0x60 [] ≠ .teardown := by decide

theorem witness_SilentDeviceHangsTheTransaction (es : List HostEvent) :
    (presenting (waiting .scanning .readSample) es).inflight = some .readSample ∧
      NothingToTake (presenting (waiting .scanning .readSample) es) ∧
      (presenting (waiting .scanning .readSample) es).inputs = es := ⟨rfl, nothingToTake_waiting _ _ _, rfl⟩

/-- The second clause's step, and the OPSEL of the third. -/
theorem witness_SilentDeviceHangsTheTransaction_request : startRequest.opsel ≠ 0x04 ∧
    step (presenting (waiting .scanning .readSample) [.request startRequest]) =
      .next (holding (waiting .scanning .readSample) startRequest) ∧
    (⟨0x04, 0, []⟩ : Request).opsel = 0x04 := ⟨by decide, rfl, rfl⟩

theorem witness_CommandsAreRejectedWhileScanning : (resting .scanning).inflight = none ∧
    (resting .scanning).session = .scanning ∧
    Instr.startScan ∈ [Instr.startScan, .getDeviceInfo, .selfTest, .restoreFactorySettings] ∧
    Instr.setOutputFreq 0x05 ∈ [OutputFrequency.freq10Hz, .freq100Hz, .freq200Hz, .freq500Hz, .freq1000Hz,
      .freq1800Hz].map (fun f => Instr.setOutputFreq (freqByte f)) ∧
    Instr.setFilter 0x01 ∈ [FilterState.off, .on].map (fun x => Instr.setFilter (filterByte x)) ∧
    Instr.setSerialBaud 0x01 ∈ [BaudRate.baud230400, .baud460800].map
      (fun b => Instr.setSerialBaud (baudByte b)) := by decide

theorem witness_SetFormatIsRejectedWhileScanning : (resting .scanning).inflight = none ∧
    (resting .scanning).session = .scanning := ⟨rfl, rfl⟩

theorem witness_StopScanInIdle : (resting .idle).inflight = none ∧ (resting .idle).session = .idle := ⟨rfl, rfl⟩

/-- A STOP_SCAN taken in Scanning: a step the first clause speaks of. -/
theorem witness_RequiresScanningHasOneCause :
    step (holding (resting .scanning) ⟨0x61, 0, []⟩) =
      .next { waiting .scanning .stopScan with tx := [[0xAA, 0x55, 0x61, 0x00, 0x60]] } := rfl

theorem witness_NextStateOfASuccessfulTransaction :
    Transaction.readSample ≠ .startScan ∧ Transaction.readSample ≠ .stopScan ∧
      guardOf .reject .startScan .idle = .pass ∧ guardOf .noOp .stopScan .scanning = .pass ∧
      completeResult .startScan (.burst [0xAA, 0x55, 0x60, 0x00, 0x5F]) = .ok .unit ∧
      completeResult .startScan (.burst []) = .fault .noDataReceived := by decide

theorem witness_StartScanCompletes : (resting .idle).inflight = none ∧ (resting .idle).session = .idle ∧
    longest.length ≤ 255 := ⟨rfl, rfl, length_longest.le⟩

theorem witness_StopScanCompletes : (resting .scanning).inflight = none ∧
    (resting .scanning).session = .scanning ∧ longest.length ≤ 255 := ⟨rfl, rfl, length_longest.le⟩

theorem witness_ReadSampleCompletes : (resting .scanning).inflight = none ∧ (longest.take 251).length ≤ 251 ∧
    ([0x10, 0x01, 0x32] : Bytes).length < 4 ∧ ([] : Bytes).length < 4 := by
  simp [resting, State.reset]

theorem witness_TeardownDuringStartScanSendsNothing : (resting .idle).inflight = none ∧
    (resting .idle).session = .idle ∧
    exec .startScan (resting .idle) =
      .next { waiting .idle .startScan with tx := [[0xAA, 0x55, 0x60, 0x00, 0x5F]] } := ⟨rfl, rfl, rfl⟩

theorem witness_GetDeviceInfoCompletes : (resting .idle).inflight = none ∧ (resting .idle).session = .idle ∧
    (List.replicate 251 (0x09 : Byte)).length ≤ 251 ∧
    (∀ d ∈ List.replicate 251 (0x09 : Byte), d.toNat ≤ 9) ∧
    (∃ d ∈ ([0x09, 0x0A] : Bytes), 9 < d.toNat) ∧ ([0x0F, 0x01, 0x01] : Bytes).length < 4 := by
  refine ⟨rfl, rfl, List.length_replicate.le, fun d h => ?_, ⟨0x0A, by decide, by decide⟩, by decide⟩
  rw [(List.mem_replicate.1 h).2]; decide

theorem witness_SerialNumberIsTheDecimalNumeral :
    serialParse [] = some 0 ∧ serialParse [0x00, 0x00, 0x07] = some 7 ∧ serialParse [0x01, 0x0A] = none :=
  ⟨rfl, rfl, rfl⟩

theorem witness_SelfTestCompletes : (resting .idle).inflight = none ∧ (resting .idle).session = .idle ∧
    (longest.take 253).length ≤ 253 ∧ ([0x01] : Bytes).length < 2 := by
  simp [resting, State.reset]

/-- The same hypotheses for the three setters. -/
theorem witness_SetOutputFreqCompletes : (resting .idle).inflight = none ∧ (resting .idle).session = .idle ∧
    (longest.take 254).length ≤ 254 := by
  simp [resting, State.reset]

theorem witness_SetFilterCompletes : (resting .idle).inflight = none ∧ (resting .idle).session = .idle ∧
    (longest.take 254).length ≤ 254 := witness_SetOutputFreqCompletes

theorem witness_SetSerialBaudCompletes : (resting .idle).inflight = none ∧ (resting .idle).session = .idle ∧
    (longest.take 254).length ≤ 254 := witness_SetOutputFreqCompletes

theorem witness_FormatAndRestoreComplete : (resting .idle).inflight = none ∧ (resting .idle).session = .idle ∧
    longest.length ≤ 255 := ⟨rfl, rfl, length_longest.le⟩

theorem witness_EncodeCompletes : (resting .scanning).inflight = none ∧ (∀ d, opcode d ≠ 0x69) ∧
    ∀ d, opcode d ≠ 0x5F :=
  ⟨rfl, fun d => by cases d <;> decide, fun d => by cases d <;> decide⟩

theorem witness_DecodeCompletes : (resting .scanning).inflight = none ∧
    decodeFrame [0xAA, 0x55, 0x60, 0x00, 0x5F] = .ok ⟨.startScan, [], 0x5F⟩ ∧
    decodeFrame [0xAA, 0x55, 0x60, 0x00, 0x5E] = .error (.checksumMismatch 0x5F 0x5E) := ⟨rfl, rfl, rfl⟩

theorem witness_ResponseTestsInOrder : ([0xAA] : Bytes) ≠ [] ∧ decodeFrame [0xAA] = .error .malformedFrame ∧
    decodeFrame [0xAA, 0x55, 0x61, 0x00, 0x60] = .ok ⟨.stopScan, [], 0x60⟩ ∧
    cmdOf .startScan = some .startScan ∧ CommandId.stopScan ≠ .startScan ∧
    cmdOf .stopScan = some CommandId.stopScan := ⟨by decide, rfl, rfl, rfl, by decide, rfl⟩

theorem witness_CompleteClearsAndDelivers :
    (presenting (waiting .idle .startScan) [.rx (.burst [])]).inflight = some .startScan ∧
      NothingToTake (presenting (waiting .idle .startScan) [.rx (.burst [])]) ∧
      (presenting (waiting .idle .startScan) [.rx (.burst [])]).inputs = .rx (.burst []) :: [] :=
  ⟨rfl, nothingToTake_waiting _ _ _, rfl⟩

theorem witness_TimeoutEndsTheWait : (waiting .idle .startScan).inflight = some .startScan := rfl

theorem witness_FaultDeliveryKeepsStateAndClearsInflight :
    step (presenting (waiting .idle .startScan) [.rx (.burst [])]) =
      .next { resting .idle with res := [.fault .noDataReceived] } := rfl

/-- A START_SCAN from Idle whose answer is an empty burst (V9). -/
theorem witness_FaultsArePrecise : (resting .idle).inflight = none ∧ Instr.startScan ≠ .teardown ∧
    exec .startScan (resting .idle) =
      .next { waiting .idle .startScan with tx := [[0xAA, 0x55, 0x60, 0x00, 0x5F]] } ∧
    presentRx (.burst []) { waiting .idle .startScan with tx := [[0xAA, 0x55, 0x60, 0x00, 0x5F]] } =
      .next { resting .idle with
        tx := [[0xAA, 0x55, 0x60, 0x00, 0x5F]]
        res := [.fault .noDataReceived] } := ⟨rfl, by decide, rfl, rfl⟩

/-- The four events that write STATE, each in a step that writes it, and the results of its other clauses. -/
theorem witness_OnlyFourEventsWriteState :
    step (presenting (waiting .idle .startScan) [.rx (.burst [0xAA, 0x55, 0x60, 0x00, 0x5F])]) =
        .next { resting .scanning with res := [.ok .unit] } ∧
      step (presenting (waiting .scanning .stopScan) [.rx (.burst [0xAA, 0x55, 0x61, 0x00, 0x60])]) =
        .next { resting .idle with res := [.ok .unit] } ∧
      step (holding (resting .scanning) ⟨0x04, 0, []⟩) =
        .next { resting .idle with tx := [[0xAA, 0x55, 0x61, 0x00, 0x60]], res := [.ok .unit] } ∧
      step (presenting (resting .scanning) [.reset]) = .next (resting .idle) ∧
      completeResult .startScan (.burst [0xAA, 0x55, 0x60, 0x00, 0x5F]) = .ok .unit ∧
      completeResult .stopScan (.burst [0xAA, 0x55, 0x61, 0x00, 0x60]) = .ok .unit :=
  ⟨rfl, rfl, rfl, rfl, rfl, rfl⟩

/-- INFLIGHT set by an ISSUE, cleared by an RX event and by RESET. -/
theorem witness_OnlyIssueSetsInflight :
    step (presenting (resting .idle) [.request ⟨0x03, 0, []⟩]) = .next (waiting .idle .readSample) ∧
      step (presenting (waiting .idle .readSample) [.rx (.burst [])]) =
        .next { resting .idle with res := [.fault .noDataReceived] } ∧
      step (presenting (waiting .idle .readSample) [.reset]) = .next (resting .idle) := ⟨rfl, rfl, rfl⟩

theorem witness_OneBurstAndOneResultAtMost :
    step (presenting (resting .scanning) [.request ⟨0x04, 0, []⟩]) =
      .next { resting .idle with tx := [[0xAA, 0x55, 0x61, 0x00, 0x60]], res := [.ok .unit] } := rfl

/-- At rest; in flight; an operation that is no transaction. -/
theorem witness_OperationFrame :
    exec .readSample (resting .idle) = .next (waiting .idle .readSample) ∧ Instr.readSample ≠ .teardown ∧
      (waiting .idle .selfTest).inflight.isSome ∧
      exec .startScan (waiting .idle .selfTest) = .next (holding (waiting .idle .selfTest) startRequest) ∧
      transactionOf (.decode []) = none ∧
      exec (.decode []) (resting .idle) = .next { resting .idle with res := [.fault .malformedFrame] } :=
  ⟨rfl, by decide, rfl, rfl, rfl, rfl⟩

theorem witness_ResetEventClears :
    NothingToTake { holding (waiting .scanning .readSample) startRequest with inputs := [.reset] } ∧
      (presenting (waiting .scanning .readSample) [.reset]).inputs = .reset :: [] :=
  ⟨nothingToTake_holding, rfl⟩

/-- In flight, a burst sent, an outcome delivered, the answer presented. -/
def busy : State :=
  { waiting .idle .startScan with
    inputs := [.rx (.burst [0xAA, 0x55, 0x60, 0x00, 0x5F])]
    tx := [[0xAA, 0x55, 0x60, 0x00, 0x5F]]
    res := [.ok (.selfTest ⟨true, 0, []⟩)] }

theorem witness_EveryStepKeepsTheInvariant : Inv busy ∧
    step busy = .next { busy with
      session := .scanning
      inflight := none
      inputs := []
      res := [.ok (.selfTest ⟨true, 0, []⟩), .ok .unit] } := by
  refine ⟨⟨fun t st h1 h2 => ?_, fun b h => ?_, fun o h => ?_⟩, rfl⟩
  · cases h1; cases h2; rfl
  · cases List.mem_singleton.1 h; exact ⟨.startScan, .startScan, rfl, rfl⟩
  · cases List.mem_singleton.1 h; rfl

theorem witness_TwoEventsAreTheOneFunction : (resting .idle).inflight = none ∧ (resting .idle).opPort = none ∧
    consumesRx Config.stopWhenIdle .idle .startScan = true ∧ RxEvent.burst [] ≠ .timeout ∧
    consumesRx Config.stopWhenIdle .scanning .startScan = false ∧
    consumesRx Config.stopWhenIdle .idle .teardown = false := ⟨rfl, rfl, rfl, by decide, rfl, rfl⟩

end Sys2Proof.Tests
end

section
/-! The encodings of the catalog's enumerations (rules R44 to R47): each byte table is injective, and its reverse
lookup searches a list of all members, so the lookup finds a member exactly at that member's byte. -/

namespace Sys2Proof.Machine

/-- A search by code through a list of all members is the inverse of the code, where the code is injective: the form
of the catalog's reverse lookups. -/
theorem find?_code_eq_some_iff {α : Type} {code : α → Byte} (hinj : Function.Injective code) {l : List α}
    (hall : ∀ x, x ∈ l) (x : α) (b : Byte) : l.find? (fun y => code y == b) = some x ↔ code x = b := by
  constructor
  · intro h
    simpa using List.find?_some h
  · rintro rfl
    cases h : l.find? (fun y => code y == code x) with
    | none => simpa using List.find?_eq_none.1 h x (hall x)
    | some y =>
      have hcode : code y = code x := by simpa using List.find?_some h
      rw [hinj hcode]

/-- No two commands share an opcode, because the reverse lookup recovers the command. -/
theorem opcode_injective : Function.Injective opcode := by
  intro c c' h
  have hlookup : cmdOfOpcode (opcode c) = cmdOfOpcode (opcode c') := congrArg cmdOfOpcode h
  simpa only [cmdOfOpcode_opcode, Option.some.injEq] using hlookup

theorem freqByte_injective : Function.Injective freqByte := by
  intro f f' h
  have hoperand := congrArg freqOperand h
  simpa only [freqOperand_freqByte, Option.some.injEq, Transaction.setOutputFreq.injEq] using hoperand

theorem filterByte_injective : Function.Injective filterByte := by
  intro x x' h
  have hoperand := congrArg filterOperand h
  simpa only [filterOperand_filterByte, Option.some.injEq, Transaction.setFilter.injEq] using hoperand

theorem freqOfByte_eq_some_iff (f : OutputFrequency) (b : Byte) : freqOfByte b = some f ↔ freqByte f = b :=
  find?_code_eq_some_iff freqByte_injective (fun f => by cases f <;> simp) f b

theorem filterOfByte_eq_some_iff (x : FilterState) (b : Byte) : filterOfByte b = some x ↔ filterByte x = b :=
  find?_code_eq_some_iff filterByte_injective (fun x => by cases x <;> simp) x b

/-- No member exactly if the byte is none of the six, which are the bytes below 0x06 (rule R46). -/
theorem freqOfByte_eq_none_iff (b : Byte) : freqOfByte b = none ↔ 0x06 ≤ b.toNat := by
  have hnone : freqOfByte b = none ↔
      0x00 ≠ b ∧ 0x01 ≠ b ∧ 0x02 ≠ b ∧ 0x03 ≠ b ∧ 0x04 ≠ b ∧ 0x05 ≠ b := by
    simp [freqOfByte, List.find?_eq_none, freqByte]
  rw [hnone]
  bv_omega

/-- No member exactly if the byte is neither of the two, which are the bytes below 0x02 (rule R47). -/
theorem filterOfByte_eq_none_iff (b : Byte) : filterOfByte b = none ↔ 0x02 ≤ b.toNat := by
  have hnone : filterOfByte b = none ↔ 0x00 ≠ b ∧ 0x01 ≠ b := by
    simp [filterOfByte, List.find?_eq_none, filterByte]
  rw [hnone]
  bv_omega

/-- A response that begins with the requested byte succeeds (rule R93). -/
@[simp] theorem echoDecode_same (b : Byte) (rest : Bytes) : echoDecode b (b :: rest) = .ok .unit := by
  simp [echoDecode]

/-- Settles O9: the opcodes are the table's, and the reverse lookup makes the table injective. -/
theorem opcodesOfTheCommands : Obligations.OpcodesOfTheCommands :=
  ⟨rfl, rfl, rfl, rfl, rfl, rfl, rfl, rfl, rfl, fun _ _ h => opcode_injective h⟩

/-- Settles O11: the bytes and rates are the tables', each lookup is the inverse of its table, and the echo of
500 Hz is the requested byte. -/
theorem frequencyAndFilterBytes : Obligations.FrequencyAndFilterBytes :=
  ⟨rfl, rfl, rfl, rfl, rfl, rfl, freqOfByte_eq_some_iff, freqOfByte_eq_none_iff,
    rfl, rfl, rfl, rfl, rfl, rfl, echoDecode_same 0x03 [],
    rfl, rfl, filterOfByte_eq_some_iff, filterOfByte_eq_none_iff⟩

end Sys2Proof.Machine
end

section
/-! The checksum and the frame that `encode` builds (rules R57, R59). -/

namespace Sys2Proof.Machine

/-- The model's sum is the library's sum of the unsigned bytes (rule R10). -/
theorem byteSum_eq_sum (bs : Bytes) : byteSum bs = (bs.map BitVec.toNat).sum := by
  induction bs with
  | nil => rfl
  | cons b bs ih => simp [ih]

theorem byteSum_perm {a b : Bytes} (h : a.Perm b) : byteSum a = byteSum b := by
  rw [byteSum_eq_sum, byteSum_eq_sum]
  exact (h.map BitVec.toNat).sum_eq

theorem checksum_toNat (bs : Bytes) : (checksum bs).toNat = byteSum bs % 256 := lsb_toNat (byteSum bs)

/-- The order of the bytes does not matter (rule R57). -/
theorem checksum_perm {a b : Bytes} (h : a.Perm b) : checksum a = checksum b :=
  congrArg lsb (byteSum_perm h)

/-- Byte 3 of a frame is its LEN byte (rules R26, R59). -/
@[simp] theorem byteAt_encodeFrame_len (c : CommandId) (p : Bytes) : byteAt (encodeFrame c p) 3 = lsb p.length := rfl

/-- Settles O1: the checksum is the low byte of the library's sum, and a sum is the same in every order. -/
theorem checksumIsTheSumModulo256 : Obligations.ChecksumIsTheSumModulo256 := by
  refine ⟨fun bs => ?_, rfl, fun _ _ => checksum_perm, rfl, rfl⟩
  rw [checksum_toNat, byteSum_eq_sum]

/-- Settles O3: the bytes are those of the definition; only the LEN byte needs the payload to be at most 255 bytes. -/
theorem encodeBuildsTheFrame : Obligations.EncodeBuildsTheFrame := by
  intro c p hlen
  refine ⟨rfl, encodeFrame_length c p, ?_⟩
  rw [byteAt_encodeFrame_len, lsb_toNat_of_le hlen]

end Sys2Proof.Machine
end

section
/-! STATE after a transaction (rule R69): what the guards of the two transitions require, and what COMPLETE does with
`next_state`. -/

namespace Sys2Proof.Machine

/-- A command that requires Idle passes its guard exactly there (rule R68). -/
theorem idleGuard_eq_pass_iff (st : SessionState) : guardOf.idleGuard st = .pass ↔ st = .idle := by
  cases st <;> decide

/-- STOP_SCAN passes its guard exactly in Scanning, whatever the open parameter (rules R5, R68). -/
theorem guardOf_stopScan_eq_pass_iff (p : StopWhenIdle) (st : SessionState) :
    guardOf p .stopScan st = .pass ↔ st = .scanning := by
  cases st with
  | idle => cases p <;> decide
  | scanning => exact ⟨fun _ => rfl, fun _ => rfl⟩

/-- Only the two transitions change STATE. -/
theorem nextState_of_ne {t : Transaction} (hstart : t ≠ .startScan) (hstop : t ≠ .stopScan) (st : SessionState) :
    nextState t st = st := by
  cases t with
  | startScan => exact absurd rfl hstart
  | stopScan => exact absurd rfl hstop
  | _ => rfl

theorem complete_session_of_ok {t : Transaction} {ev : RxEvent} {v : Value} (s : State)
    (h : completeResult t ev = .ok v) : (complete t ev s).session = nextState t s.session := by
  obtain ⟨_, _, hs⟩ | ⟨f, hf, _⟩ := complete_cases t ev s
  · rw [hs]
  · cases h.symm.trans hf

theorem complete_session_of_fault {t : Transaction} {ev : RxEvent} {f : Failure} (s : State)
    (h : completeResult t ev = .fault f) : (complete t ev s).session = s.session := by
  obtain ⟨v, hv, _⟩ | ⟨_, _, hs⟩ := complete_cases t ev s
  · cases h.symm.trans hv
  · rw [hs]

/-- Settles O26: `next_state` by its table, the guards by their outcome in each STATE, and COMPLETE by the two ways it
can go. -/
theorem nextStateOfASuccessfulTransaction : Obligations.NextStateOfASuccessfulTransaction :=
  ⟨fun _ => rfl, fun _ => rfl, fun _ st hstart hstop => nextState_of_ne hstart hstop st,
    fun _ st => (idleGuard_eq_pass_iff st).1, fun p st => (guardOf_stopScan_eq_pass_iff p st).1,
    fun _ _ s _ => complete_session_of_ok s, fun _ _ s _ => complete_session_of_fault s⟩

end Sys2Proof.Machine
end

section
/-! The faults a COMPLETE can give and the cause of each (rules R103, R106, R107): what the response decoders can
refuse is said once, then what COMPLETE can refuse, and each rule reads its cause off. -/

namespace Sys2Proof.Machine

/-- A sample has one fault: it is too short (rule R85). -/
theorem sampleDecode_fault {p : Bytes} {x : Failure} (h : sampleDecode p = .fault x) : x = .malformedFrame := by
  unfold sampleDecode at h
  split at h <;> cases h
  rfl

/-- Version data has one fault, whether it is too short or its serial number has a bad digit (rules R89, R90). -/
theorem versionDecode_fault {p : Bytes} {x : Failure} (h : versionDecode p = .fault x) : x = .malformedFrame := by
  unfold versionDecode at h
  split at h
  · split at h <;> cases h
    rfl
  · cases h
    rfl

/-- The faults of a self-test answer: it is too short, or its flag is not 0x01 (rule R92). -/
theorem selftestDecode_fault {p : Bytes} {x : Failure} (h : selftestDecode p = .fault x) :
    x = .malformedFrame ∨
      ∃ flag code more, p = flag :: code :: more ∧ flag ≠ 0x01 ∧ x = .selfTestFailed code := by
  unfold selftestDecode at h
  split at h
  next flag code more =>
    split at h <;> cases h
    exact .inr ⟨flag, code, more, rfl, ‹_›, rfl⟩
  next =>
    cases h
    exact .inl rfl

theorem selftestDecode_of_ne {flag : Byte} (code : Byte) (more : Bytes) (h : flag ≠ 0x01) :
    selftestDecode (flag :: code :: more) = .fault (.selfTestFailed code) :=
  if_pos h

/-- The faults of an echo: it is absent, or it is not the byte sent (rule R93). -/
theorem echoDecode_fault {sent : Byte} {p : Bytes} {x : Failure} (h : echoDecode sent p = .fault x) :
    x = .malformedFrame ∨
      ∃ echoed more, p = echoed :: more ∧ echoed ≠ sent ∧ x = .configurationRejected sent echoed := by
  unfold echoDecode at h
  split at h
  next echoed more =>
    split at h <;> cases h
    exact .inr ⟨echoed, more, rfl, ‹_›, rfl⟩
  next =>
    cases h
    exact .inl rfl

theorem echoDecode_of_ne {sent echoed : Byte} (more : Bytes) (h : echoed ≠ sent) :
    echoDecode sent (echoed :: more) = .fault (.configurationRejected sent echoed) :=
  if_pos h

/-- The three setters whose answer is an echo: the transactions that rule R107 names. -/
def IsEchoSetter (t : Transaction) : Prop :=
  (∃ f, t = .setOutputFreq f) ∨ (∃ x, t = .setFilter x) ∨ ∃ b, t = .setSerialBaud b

/-- A setter's answer is judged by the echo of the one byte it sent (rules R49, R94 to R96). -/
theorem rspDecode_of_isEchoSetter {t : Transaction} (h : IsEchoSetter t) :
    ∃ sent, reqPayload t = [sent] ∧ ∀ p, rspDecode t p = echoDecode sent p := by
  obtain ⟨f, rfl⟩ | ⟨x, rfl⟩ | ⟨b, rfl⟩ := h
  · exact ⟨freqByte f, rfl, fun _ => rfl⟩
  · exact ⟨filterByte x, rfl, fun _ => rfl⟩
  · exact ⟨baudByte b, rfl, fun _ => rfl⟩

/-- The faults a setter's answer can give (rule R93). -/
theorem rspDecode_fault_of_isEchoSetter {t : Transaction} {p : Bytes} {x : Failure} (ht : IsEchoSetter t)
    (h : rspDecode t p = .fault x) :
    x = .malformedFrame ∨
      ∃ sent echoed more, reqPayload t = [sent] ∧ p = echoed :: more ∧ echoed ≠ sent ∧
        x = .configurationRejected sent echoed := by
  obtain ⟨sent, hsent, hrsp⟩ := rspDecode_of_isEchoSetter ht
  rw [hrsp] at h
  obtain hx | ⟨echoed, more, hp, hne, hx⟩ := echoDecode_fault h
  · exact .inl hx
  · exact .inr ⟨sent, echoed, more, hsent, hp, hne, hx⟩

/-- The faults an answer's payload can give: every transaction's `MalformedFrame`, SELF_TEST's failed flag, and a
setter's other echo. -/
theorem rspDecode_fault {t : Transaction} {p : Bytes} {x : Failure} (h : rspDecode t p = .fault x) :
    x = .malformedFrame ∨
      (t = .selfTest ∧ ∃ flag code more, p = flag :: code :: more ∧ flag ≠ 0x01 ∧ x = .selfTestFailed code) ∨
      (IsEchoSetter t ∧ ∃ sent echoed more, reqPayload t = [sent] ∧ p = echoed :: more ∧ echoed ≠ sent ∧
        x = .configurationRejected sent echoed) := by
  by_cases ht : IsEchoSetter t
  · exact (rspDecode_fault_of_isEchoSetter ht h).imp_right fun hx => .inr ⟨ht, hx⟩
  cases t with
  | getDeviceInfo => exact .inl (versionDecode_fault h)
  | readSample => exact .inl (sampleDecode_fault h)
  | selfTest => exact (selftestDecode_fault h).imp_right fun hx => .inl ⟨rfl, hx⟩
  | setOutputFreq f => exact absurd (.inl ⟨f, rfl⟩) ht
  | setFilter y => exact absurd (.inr (.inl ⟨y, rfl⟩)) ht
  | setSerialBaud b => exact absurd (.inr (.inr ⟨b, rfl⟩)) ht
  | startScan => cases h
  | stopScan => cases h
  | setFormatOutputData v => cases h
  | restoreFactorySettings => cases h

/-- A transaction accepts the command it sent, or any command where it sent none (rule R72 step 4). -/
theorem answers_iff (t : Transaction) (c : CommandId) :
    answers t c = true ↔ cmdOf t = none ∨ cmdOf t = some c := by
  unfold answers
  cases cmdOf t <;> simp

/-- A sound answer is judged by its payload (rule R72 step 5). -/
theorem completeResult_of_decoded {t : Transaction} {raw : Bytes} {f : Frame} (hd : decodeFrame raw = .ok f)
    (ha : cmdOf t = some f.command) : completeResult t (.burst raw) = rspDecode t f.payload := by
  have hraw : raw ≠ [] := by
    rintro rfl
    cases hd
  have hans : answers t f.command = true := (answers_iff t f.command).2 (.inr ha)
  simp [completeResult, hraw, hd, hans]

/-- The faults of COMPLETE by the step of rule R72 that gives them; the last is the payload's own. -/
theorem completeResult_fault {t : Transaction} {ev : RxEvent} {x : Failure} (h : completeResult t ev = .fault x) :
    (ev = .timeout ∧ x = .deviceUnresponsive) ∨ (ev = .burst [] ∧ x = .noDataReceived) ∨
      x = .malformedFrame ∨ (∃ expected actual, x = .checksumMismatch expected actual) ∨
      ∃ raw f, ev = .burst raw ∧ decodeFrame raw = .ok f ∧ (cmdOf t = none ∨ cmdOf t = some f.command) ∧
        rspDecode t f.payload = .fault x := by
  have hj := judged t ev
  generalize completeResult t ev = r at h hj
  cases hj with
  | timeout => cases h; exact .inl ⟨rfl, rfl⟩
  | empty => cases h; exact .inr (.inl ⟨rfl, rfl⟩)
  | broken raw y _ hd =>
    cases h
    obtain hx | ⟨e, a, hx, _⟩ := decodeFrame_error hd
    · exact .inr (.inr (.inl hx))
    · exact .inr (.inr (.inr (.inl ⟨e, a, hx⟩)))
  | otherCommand => cases h; exact .inr (.inr (.inl rfl))
  | decoded raw f hd ha =>
    exact .inr (.inr (.inr (.inr ⟨raw, f, rfl, hd, (answers_iff t f.command).1 ha, h⟩)))

/-- No payload gives `NoDataReceived`. -/
theorem rspDecode_ne_noDataReceived (t : Transaction) (p : Bytes) : rspDecode t p ≠ .fault .noDataReceived := by
  intro h
  obtain hx | ⟨_, _, _, _, _, _, hx⟩ | ⟨_, _, _, _, _, _, _, hx⟩ := rspDecode_fault h <;> cases hx

/-- The payloads that give `SelfTestFailed`, and the one transaction they give it in. -/
theorem rspDecode_eq_selfTestFailed_iff (t : Transaction) (p : Bytes) (code : Byte) :
    rspDecode t p = .fault (.selfTestFailed code) ↔
      t = .selfTest ∧ ∃ flag more, p = flag :: code :: more ∧ flag ≠ 0x01 := by
  constructor
  · intro h
    obtain hx | ⟨ht, flag, _, more, hp, hflag, hx⟩ | ⟨_, _, _, _, _, _, _, hx⟩ := rspDecode_fault h <;> cases hx
    exact ⟨ht, flag, more, hp, hflag⟩
  · rintro ⟨rfl, flag, more, rfl, hflag⟩
    exact selftestDecode_of_ne code more hflag

/-- The payloads that give `ConfigurationRejected`, and the transactions they give it in. -/
theorem rspDecode_eq_configurationRejected_iff (t : Transaction) (p : Bytes) (requested echoed : Byte) :
    rspDecode t p = .fault (.configurationRejected requested echoed) ↔
      IsEchoSetter t ∧ reqPayload t = [requested] ∧ ∃ more, p = echoed :: more ∧ echoed ≠ requested := by
  constructor
  · intro h
    obtain hx | ⟨_, _, _, _, _, _, hx⟩ | ⟨ht, _, _, more, hreq, hp, hne, hx⟩ := rspDecode_fault h <;> cases hx
    exact ⟨ht, hreq, more, hp, hne⟩
  · rintro ⟨ht, hreq, more, rfl, hne⟩
    obtain ⟨sent, hsent, hrsp⟩ := rspDecode_of_isEchoSetter ht
    obtain rfl : sent = requested := by simpa [hsent] using hreq
    rw [hrsp, echoDecode_of_ne more hne]

/-- A setter sends a command. -/
theorem cmdOf_ne_none_of_isEchoSetter {t : Transaction} (h : IsEchoSetter t) : cmdOf t ≠ none := by
  obtain ⟨f, rfl⟩ | ⟨x, rfl⟩ | ⟨b, rfl⟩ := h <;> simp [cmdOf]

/-- `decode` has no such fault: an empty sequence too is a malformed one (rules R61, R62). -/
theorem decodeResult_ne_noDataReceived (data : Bytes) : decodeResult data ≠ .fault .noDataReceived := by
  intro h
  obtain ⟨f, hd⟩ | hd | ⟨e, a, hd⟩ := decodeResult_cases data <;> cases hd.symm.trans h

/-- Settles O42: of the ways COMPLETE can fault only the empty burst gives it, and `decode` has no such fault. -/
theorem noDataReceivedHasOneCause : Obligations.NoDataReceivedHasOneCause := by
  refine ⟨fun t ev => ⟨fun h => ?_, ?_⟩, decodeResult_ne_noDataReceived⟩
  · obtain ⟨_, hx⟩ | ⟨hev, _⟩ | hx | ⟨_, _, hx⟩ | ⟨_, f, _, _, _, hr⟩ := completeResult_fault h
    · cases hx
    · exact hev
    · cases hx
    · cases hx
    · exact absurd hr (rspDecode_ne_noDataReceived t f.payload)
  · rintro rfl
    rfl

/-- Settles O43: the fault is the payload's, and only SELF_TEST's decoder gives it. -/
theorem selfTestFailedHasOneCause : Obligations.SelfTestFailedHasOneCause := by
  intro t ev code
  constructor
  · intro h
    obtain ⟨_, hx⟩ | ⟨_, hx⟩ | hx | ⟨_, _, hx⟩ | ⟨raw, f, hev, hd, hcmd, hr⟩ := completeResult_fault h
    iterate 4 cases hx
    obtain ⟨rfl, flag, more, hp, hflag⟩ := (rspDecode_eq_selfTestFailed_iff t f.payload code).1 hr
    have hf : f.command = .selfTest := by simpa [cmdOf, eq_comm] using hcmd
    exact ⟨rfl, raw, f, flag, more, hev, hd, hf, hp, hflag⟩
  · rintro ⟨rfl, raw, f, flag, more, rfl, hd, hf, hp, hflag⟩
    rw [completeResult_of_decoded (t := .selfTest) hd (congrArg some hf.symm)]
    exact (rspDecode_eq_selfTestFailed_iff .selfTest f.payload code).2 ⟨rfl, flag, more, hp, hflag⟩

/-- Settles O44: the fault is the payload's, and only the setters' echo gives it. -/
theorem configurationRejectedHasOneCause : Obligations.ConfigurationRejectedHasOneCause := by
  intro t ev requested echoed
  constructor
  · intro h
    obtain ⟨_, hx⟩ | ⟨_, hx⟩ | hx | ⟨_, _, hx⟩ | ⟨raw, f, hev, hd, hcmd, hr⟩ := completeResult_fault h
    iterate 4 cases hx
    obtain ⟨ht, hreq, more, hp, hne⟩ :=
      (rspDecode_eq_configurationRejected_iff t f.payload requested echoed).1 hr
    exact ⟨ht, raw, f, more, hev, hd, hcmd.resolve_left (cmdOf_ne_none_of_isEchoSetter ht), hreq, hp, hne⟩
  · rintro ⟨ht, raw, f, more, rfl, hd, hcmd, hreq, hp, hne⟩
    rw [completeResult_of_decoded hd hcmd]
    exact (rspDecode_eq_configurationRejected_iff t f.payload requested echoed).2 ⟨ht, hreq, more, hp, hne⟩

end Sys2Proof.Machine
end

section
/-! What the delivery of a fault leaves and clears (rule R113): for an ISSUE, for a request, then for every step. -/

namespace Sys2Proof.Machine

/-- What rule R113 says of the states before and after a fault. -/
def FaultKeepsAllButInflight (s s' : State) : Prop :=
  s'.session = s.session ∧ s'.inflight = none ∧ s'.tx = s.tx

/-- Sending delivers nothing. -/
@[simp] theorem send_res (t : Transaction) (s : State) : (send t s).res = s.res := by
  obtain ⟨_, h⟩ | ⟨c, _, h⟩ := send_eq t s <;> rw [h]

/-- An ISSUE delivers a fault only by its guard's rejection. -/
theorem issue_keeps_of_fault {t : Transaction} {s : State} {f : Failure}
    (h : (issue t s).res = s.res ++ [.fault f]) : FaultKeepsAllButInflight s (issue t s) := by
  obtain ⟨g, _, hs⟩ | ⟨_, hs⟩ | ⟨_, hs⟩ := issue_cases t s
  · rw [hs]
    exact ⟨rfl, rfl, rfl⟩
  · simp [hs] at h
  · simp [hs] at h

/-- With nothing in flight, a delivery alone is all that rule R113 asks. -/
theorem deliver_keeps {s : State} (r : Result) (hi : s.inflight = none) :
    FaultKeepsAllButInflight s (deliver r s) := ⟨rfl, hi, rfl⟩

theorem complete_keeps_of_fault {t : Transaction} {ev : RxEvent} {s : State} {f : Failure}
    (h : (complete t ev s).res = s.res ++ [.fault f]) : FaultKeepsAllButInflight s (complete t ev s) := by
  obtain ⟨hinflight, htx, _, _, hres⟩ := complete_frame t ev s
  have hfault : completeResult t ev = .fault f := by simpa [hres] using h
  exact ⟨complete_session_of_fault s hfault, hinflight, htx⟩

/-- A request that is answered by a fault. -/
theorem Ran.keeps_of_fault {s s' : State} {r : Request} {e : Option Event} {f : Failure}
    (hran : Ran s r e (.next s')) (h : s'.res = s.res ++ [.fault f]) : FaultKeepsAllButInflight s s' := by
  cases hran with
  | tornDown => simp at h
  | issued => exact issue_keeps_of_fault h
  | encoded arg data _ hi => exact deliver_keeps _ hi
  | decoded data _ hi => exact deliver_keeps _ hi
  | refused _ hi => exact deliver_keeps _ hi
  | held => simp at h

/-- Settles O48, by what a step can do: a RESET and a step without an event deliver nothing, TEARDOWN delivers no
fault, and every other event that does is an ISSUE, a COMPLETE, or a delivery with nothing in flight. -/
theorem faultDeliveryKeepsStateAndClearsInflight : Obligations.FaultDeliveryKeepsStateAndClearsInflight := by
  intro s s' f hstep hres
  have htook := took s
  rw [hstep] at htook
  generalize eventAt s = event at htook
  cases htook with
  | waiting r e o _ _ hran => exact hran.keeps_of_fault hres
  | nothing => simp at hres
  | request r rest e o _ _ hran => exact hran.keeps_of_fault hres
  | reset => simp at hres
  | completed t ev rest => exact complete_keeps_of_fault hres

end Sys2Proof.Machine
end

section
/-! The arithmetic of the checksum (rule R58): the checksum of a sequence is the sum of its bytes as bytes, so it adds
up over the parts of a frame. -/

namespace Sys2Proof.Machine

/-- The low byte of a sum is the sum of the low bytes. -/
theorem lsb_add (m n : Nat) : lsb (m + n) = lsb m + lsb n := BitVec.ofNat_add m n

@[simp] theorem lsb_toNat_self (b : Byte) : lsb b.toNat = b := by simp [lsb]

@[simp] theorem checksum_nil : checksum [] = 0 := rfl

@[simp] theorem checksum_cons (b : Byte) (bs : Bytes) : checksum (b :: bs) = b + checksum bs := by
  rw [checksum, byteSum_cons, lsb_add, lsb_toNat_self, checksum]

@[simp] theorem checksum_append (a b : Bytes) : checksum (a ++ b) = checksum a + checksum b := by
  rw [checksum, byteSum_append, lsb_add, checksum, checksum]

/-- An 8-bit accumulator that starts anywhere adds the checksum to its start. -/
theorem foldl_add_eq_checksum (acc : Byte) (bs : Bytes) :
    bs.foldl (fun acc b => acc + b) acc = acc + checksum bs := by
  induction bs generalizing acc with
  | nil => simp
  | cons b bs ih => rw [List.foldl_cons, ih, checksum_cons, BitVec.add_assoc]

theorem byteSum_le (bs : Bytes) : byteSum bs ≤ 255 * bs.length := by
  induction bs with
  | nil => simp
  | cons b bs ih =>
    have hb : b.toNat < 256 := b.isLt
    rw [byteSum_cons, List.length_cons]
    omega

/-- The header contributes 0xFF to a frame's sum, and LEN the payload's length. -/
theorem byteSum_frameBody (c : CommandId) {p : Bytes} (h : p.length ≤ 255) :
    byteSum (frameBody c p) = 0xFF + (opcode c).toNat + p.length + byteSum p := by
  have hheader : hdr0.toNat + hdr1.toNat = 0xFF := rfl
  simp only [frameBody, byteSum_append, byteSum_cons, byteSum_nil, lsb_toNat_of_le h]
  omega

/-- Settles O2: the checksum adds up byte by byte, and addition of bytes cancels. -/
theorem checksumArithmetic : Obligations.ChecksumArithmetic := by
  refine ⟨fun bs => ?_, fun c p h => ?_, fun c p h => ?_, fun before after x y hxy h => hxy ?_⟩
  · rw [foldl_add_eq_checksum]
    simp
  · have hop : (opcode c).toNat < 256 := (opcode c).isLt
    have hp := byteSum_le p
    rw [byteSum_frameBody c h]
    omega
  · rw [checksum, byteSum_frameBody c h]
  · simpa using h

end Sys2Proof.Machine
end

section
/-! `decode` (rule R61): its tests on a sequence split into its fields, then exactly which sequences it accepts. -/

namespace Sys2Proof.Machine

theorem decodeFrame_of_short {raw : Bytes} (h : raw.length < 5) : decodeFrame raw = .error .malformedFrame :=
  if_pos h

/-- A sequence whose length is not the one its LEN byte tells is no frame, whatever else it holds (decision D7). -/
theorem decodeFrame_of_length_ne {raw : Bytes} (h : raw.length ≠ 5 + (byteAt raw 3).toNat) :
    decodeFrame raw = .error .malformedFrame := by
  unfold decodeFrame
  simp only [if_pos h, ite_self]

/-- A sequence of five bytes or more has the four bytes of a frame's head, a middle part and a last byte. -/
theorem exists_fields_of_length {raw : Bytes} (h : 5 ≤ raw.length) :
    ∃ (h0 h1 op len : Byte) (p : Bytes) (cs : Byte), raw = [h0, h1, op, len] ++ p ++ [cs] := by
  obtain ⟨h0, h1, op, len, tail, rfl⟩ : ∃ h0 h1 op len tail, raw = h0 :: h1 :: op :: len :: tail := by
    match raw, h with
    | h0 :: h1 :: op :: len :: tail, _ => exact ⟨h0, h1, op, len, tail, rfl⟩
  have htail : tail ≠ [] := by
    rintro rfl
    simp at h
  exact ⟨h0, h1, op, len, tail.dropLast, tail.getLast htail, by simp [List.dropLast_append_getLast htail]⟩

/-- The tests of `decode` in their order, on the fields of the sequence. -/
theorem decodeFrame_fields (h0 h1 op len cs : Byte) (p : Bytes) :
    decodeFrame ([h0, h1, op, len] ++ p ++ [cs]) =
      if h0 ≠ 0xAA ∨ h1 ≠ 0x55 then .error .malformedFrame
      else if p.length ≠ len.toNat then .error .malformedFrame
      else if cs ≠ checksum ([h0, h1, op, len] ++ p) then
        .error (.checksumMismatch (checksum ([h0, h1, op, len] ++ p)) cs)
      else
        match cmdOfOpcode op with
        | none => .error .malformedFrame
        | some c => .ok ⟨c, p, cs⟩ := by
  have hlength : ([h0, h1, op, len] ++ p ++ [cs]).length = 5 + p.length := by simp; omega
  have hbody : slice ([h0, h1, op, len] ++ p ++ [cs]) 0 (5 + p.length - 1) = [h0, h1, op, len] ++ p :=
    List.take_left' (by simp; omega)
  have hlast : byteAt ([h0, h1, op, len] ++ p ++ [cs]) (5 + p.length - 1) = cs := by
    have hindex : 5 + p.length - 1 = ([h0, h1, op, len] ++ p).length := by simp; omega
    rw [hindex]
    simp [byteAt]
  have hpayload : slice ([h0, h1, op, len] ++ p ++ [cs]) 4 (4 + p.length) = p := by simp [slice]
  have hop : byteAt ([h0, h1, op, len] ++ p ++ [cs]) 2 = op := rfl
  have hlen : byteAt ([h0, h1, op, len] ++ p ++ [cs]) 3 = len := rfl
  unfold decodeFrame
  simp only [hlength, hbody, hlast, hop, hlen]
  rw [if_neg (by omega)]
  refine if_congr Iff.rfl rfl ?_
  by_cases hexact : p.length = len.toNat
  · rw [if_neg (by omega), if_neg (not_not.2 hexact), ← hexact, hpayload]
    exact if_congr ne_comm rfl rfl
  · rw [if_pos (by omega), if_pos hexact]

/-- On a frame's bytes before its checksum, `decode` compares the last byte and nothing else. -/
theorem decodeFrame_frameBody (c : CommandId) {p : Bytes} (h : p.length ≤ 255) (x : Byte) :
    decodeFrame (frameBody c p ++ [x]) =
      if x ≠ checksum (frameBody c p) then .error (.checksumMismatch (checksum (frameBody c p)) x)
      else .ok ⟨c, p, x⟩ := by
  have hfields := decodeFrame_fields hdr0 hdr1 (opcode c) (lsb p.length) x p
  rw [lsb_toNat_of_le h, if_neg (by decide), if_neg (by simp), cmdOfOpcode_opcode] at hfields
  exact hfields

/-- Decoding an encoded frame (rule R63). -/
theorem decodeFrame_encodeFrame (c : CommandId) {p : Bytes} (h : p.length ≤ 255) :
    decodeFrame (encodeFrame c p) = .ok ⟨c, p, checksum (frameBody c p)⟩ := by
  rw [encodeFrame, decodeFrame_frameBody c h, if_neg (not_not.2 rfl)]

/-- The sequences `decode` accepts, and the frame it gives: those `encode` builds, from that frame. -/
theorem decodeFrame_eq_ok_iff (raw : Bytes) (f : Frame) :
    decodeFrame raw = .ok f ↔
      f.payload.length ≤ 255 ∧ raw = encodeFrame f.command f.payload ∧
        f.checksum = checksum (frameBody f.command f.payload) := by
  constructor
  · intro h
    obtain ⟨h0, h1, op, len, p, cs, rfl⟩ : ∃ h0 h1 op len p cs, raw = [h0, h1, op, len] ++ p ++ [cs] := by
      refine exists_fields_of_length (Nat.le_of_not_lt fun hshort => ?_)
      rw [decodeFrame_of_short hshort] at h
      cases h
    rw [decodeFrame_fields] at h
    split at h
    · cases h
    split at h
    · cases h
    split at h
    · cases h
    split at h
    · cases h
    next hheader hlen hcs _ c hop =>
      cases h
      obtain ⟨rfl, rfl⟩ : h0 = 0xAA ∧ h1 = 0x55 := by simpa using hheader
      obtain rfl := not_not.1 hcs
      obtain rfl := opcode_of_cmdOfOpcode hop
      have hlsb : lsb p.length = len := by rw [not_not.1 hlen, lsb_toNat_self]
      have hbyte : len.toNat < 256 := len.isLt
      refine ⟨by simp only; omega, ?_, ?_⟩
      · simp [encodeFrame, frameBody, hlsb, hdr0, hdr1]
      · simp [frameBody, hlsb, hdr0, hdr1]
  · obtain ⟨c, p, cs⟩ := f
    simp only
    rintro ⟨hlen, rfl, rfl⟩
    exact decodeFrame_encodeFrame c hlen

/-- Settles O4. -/
theorem decodeTestsLengthHeaderChecksumOpcode : Obligations.DecodeTestsLengthHeaderChecksumOpcode :=
  ⟨fun _ => decodeFrame_of_short, decodeFrame_fields⟩

/-- Settles O6: `decode` accepts exactly the encoded frames, so each function undoes the other. -/
theorem decodeAndEncodeAgree : Obligations.DecodeAndEncodeAgree := by
  refine ⟨fun c p => decodeFrame_encodeFrame c, fun raw f h => ?_, fun raw raw' f h h' => ?_,
    fun c c' p p' hp hp' h => ?_⟩
  · obtain ⟨hlen, rfl, hcs⟩ := (decodeFrame_eq_ok_iff raw f).1 h
    exact ⟨hlen, rfl, by simp [encodeFrame, hcs]⟩
  · obtain ⟨_, hraw, _⟩ := (decodeFrame_eq_ok_iff raw f).1 h
    obtain ⟨_, hraw', _⟩ := (decodeFrame_eq_ok_iff raw' f).1 h'
    rw [hraw, hraw']
  · have hdecoded := congrArg decodeFrame h
    rw [decodeFrame_encodeFrame c hp, decodeFrame_encodeFrame c' hp'] at hdecoded
    cases hdecoded
    exact ⟨rfl, rfl⟩

/-- Settles O7: an accepted sequence passes the tests before the checksum's, which do not read the last byte. -/
theorem corruptedLastByteIsReported : Obligations.CorruptedLastByteIsReported := by
  intro body cs x f h hx
  obtain ⟨hlen, hraw, _⟩ := (decodeFrame_eq_ok_iff _ f).1 h
  obtain ⟨rfl, hcs⟩ := List.append_inj' hraw rfl
  obtain rfl : cs = checksum (frameBody f.command f.payload) := by simpa using hcs
  rw [decodeFrame_frameBody f.command hlen, if_pos hx]

/-- Settles O8: a byte before the frame spoils the header, and bytes after it or missing ones the exact length. -/
theorem oneBurstHoldsExactlyOneFrame : Obligations.OneBurstHoldsExactlyOneFrame := by
  refine ⟨fun c p x _ => ?_, fun c p extra hp hextra => ?_, fun c p k hp hk => ?_⟩
  · have hfields := decodeFrame_fields x hdr0 hdr1 (opcode c) (checksum (frameBody c p)) (lsb p.length :: p)
    rw [if_pos (.inr (by decide))] at hfields
    exact hfields
  · refine decodeFrame_of_length_ne ?_
    have hlen : (byteAt (encodeFrame c p ++ extra) 3).toNat = p.length := lsb_toNat_of_le hp
    have hpos := List.length_pos_iff.2 hextra
    rw [hlen, List.length_append, encodeFrame_length]
    omega
  · rw [encodeFrame_length] at hk
    have htake : ((encodeFrame c p).take k).length = k := by
      rw [List.length_take, encodeFrame_length]
      omega
    by_cases hshort : k < 5
    · exact decodeFrame_of_short (htake.trans_lt hshort)
    · refine decodeFrame_of_length_ne ?_
      have hbyte : byteAt ((encodeFrame c p).take k) 3 = byteAt (encodeFrame c p) 3 := by
        rw [byteAt, List.getD_eq_getElem?_getD, List.getElem?_take_of_lt (by omega)]
        rfl
      rw [htake, hbyte, byteAt_encodeFrame_len, lsb_toNat_of_le hp]
      omega

/-- Settles O5, by evaluation. -/
theorem decodeCornerCases : Obligations.DecodeCornerCases :=
  ⟨rfl, rfl, rfl, rfl, rfl, rfl, rfl, rfl, rfl, rfl, rfl⟩

end Sys2Proof.Machine
end

section
/-! The catalog read backwards, the request frames of the commands (rules R45 to R49), and the encodings of the
operations (rules R37, R49, R54). -/

namespace Sys2Proof.Machine

/-- The reverse lookup is the inverse of the opcode table. -/
theorem cmdOfOpcode_eq_some_iff (b : Byte) (c : CommandId) : cmdOfOpcode b = some c ↔ opcode c = b :=
  find?_code_eq_some_iff opcode_injective (fun c => by cases c <;> simp [allCommands]) c b

/-- No command exactly if the byte is none of the nine opcodes, which are the bytes 0x60 to 0x68 (rule R51). -/
theorem cmdOfOpcode_eq_none_iff (b : Byte) : cmdOfOpcode b = none ↔ b.toNat < 0x60 ∨ 0x68 < b.toNat := by
  have hnone : cmdOfOpcode b = none ↔ 0x60 ≠ b ∧ 0x61 ≠ b ∧ 0x62 ≠ b ∧ 0x63 ≠ b ∧ 0x64 ≠ b ∧ 0x65 ≠ b ∧
      0x66 ≠ b ∧ 0x67 ≠ b ∧ 0x68 ≠ b := by
    simp [cmdOfOpcode, allCommands, List.find?_eq_none, opcode]
  rw [hnone]
  bv_omega

/-- Settles O10: the lookup is the inverse of an injective table, and the names are evaluated. -/
theorem reverseLookupFindsExactlyTheNine : Obligations.ReverseLookupFindsExactlyTheNine :=
  ⟨cmdOfOpcode_eq_some_iff, cmdOfOpcode_eq_none_iff, rfl, rfl, rfl, rfl, rfl, rfl, rfl, rfl, rfl, rfl⟩

theorem baudByte_injective : Function.Injective baudByte := by
  intro b b' h
  have hoperand := congrArg baudOperand h
  simpa only [baudOperand_baudByte, Option.some.injEq, Transaction.setSerialBaud.injEq] using hoperand

theorem baudOfByte_eq_some_iff (x : BaudRate) (b : Byte) : baudOfByte b = some x ↔ baudByte x = b :=
  find?_code_eq_some_iff baudByte_injective (fun x => by cases x <;> simp) x b

/-- No member exactly if the byte is neither of the two enabled ones, which are the bytes below 0x02 (rule R48). -/
theorem baudOfByte_eq_none_iff (b : Byte) : baudOfByte b = none ↔ 0x02 ≤ b.toNat := by
  have hnone : baudOfByte b = none ↔ 0x00 ≠ b ∧ 0x01 ≠ b := by
    simp [baudOfByte, List.find?_eq_none, baudByte]
  rw [hnone]
  bv_omega

/-- Settles O12. -/
theorem baudBytesAndReservedCodes : Obligations.BaudBytesAndReservedCodes :=
  ⟨rfl, rfl, baudOfByte_eq_some_iff, baudOfByte_eq_none_iff, rfl, rfl⟩

/-- The operation that asks for a transaction: `transactionOf` read backwards. -/
def instrOf : Transaction → Instr
  | .startScan => .startScan
  | .stopScan => .stopScan
  | .getDeviceInfo => .getDeviceInfo
  | .selfTest => .selfTest
  | .setOutputFreq f => .setOutputFreq (freqByte f)
  | .setFilter x => .setFilter (filterByte x)
  | .setSerialBaud b => .setSerialBaud (baudByte b)
  | .setFormatOutputData v => .setFormatOutputData v
  | .restoreFactorySettings => .restoreFactorySettings
  | .readSample => .readSample

/-- Each transaction is asked for by one operation only. -/
theorem eq_instrOf_of_transactionOf {i : Instr} {t : Transaction} (h : transactionOf i = some t) : i = instrOf t := by
  cases i with
  | setOutputFreq arg =>
    obtain ⟨f, hf, rfl⟩ := Option.map_eq_some_iff.1 h
    rw [← (freqOfByte_eq_some_iff f arg).1 hf, instrOf]
  | setFilter arg =>
    obtain ⟨x, hx, rfl⟩ := Option.map_eq_some_iff.1 h
    rw [← (filterOfByte_eq_some_iff x arg).1 hx, instrOf]
  | setSerialBaud arg =>
    obtain ⟨b, hb, rfl⟩ := Option.map_eq_some_iff.1 h
    rw [← (baudOfByte_eq_some_iff b arg).1 hb, instrOf]
  | _ => cases h <;> rfl

/-- The request frame of a command without an operand (REQ0 of rule R43). -/
theorem encodeFrame_nil (c : CommandId) : encodeFrame c [] = [0xAA, 0x55, opcode c, 0x00, opcode c - 1] := by
  cases c <;> rfl

/-- The request frame of a command with one operand byte (REQ1 of rule R43): the header, LEN and the carries cancel
in its checksum. -/
theorem encodeFrame_singleton (c : CommandId) (v : Byte) :
    encodeFrame c [v] = [0xAA, 0x55, opcode c, 0x01, v, opcode c + v] := by
  have hchecksum : checksum (frameBody c [v]) = opcode c + v := by
    simp only [frameBody, hdr0, hdr1, checksum_append, checksum_cons, checksum_nil, List.length_singleton, lsb]
    bv_omega
  rw [encodeFrame, hchecksum]
  rfl

/-- On the wire a transaction's operation is the frame that ISSUE sends. -/
theorem encodeWire_instrOf {t : Transaction} {c : CommandId} (h : cmdOf t = some c) :
    encodeWire (instrOf t) = some (encodeFrame c (reqPayload t)) := by
  cases t <;> cases h <;> rfl

/-- Settles O13: frames without an operand are evaluated, those with one have the sum of opcode and operand for a
checksum. -/
theorem requestFramesOfTheCatalog : Obligations.RequestFramesOfTheCatalog := by
  refine ⟨rfl, rfl, rfl, rfl, fun v => congrArg some (encodeFrame_singleton _ v),
    fun v => congrArg some (encodeFrame_singleton _ v), fun v => congrArg some (encodeFrame_singleton _ v),
    fun v => congrArg some (encodeFrame_singleton _ v), rfl, fun i t c ht hc => ?_, rfl⟩
  rw [eq_instrOf_of_transactionOf ht, encodeWire_instrOf hc]

theorem decodeWire_encodeFrame (c : CommandId) {p : Bytes} (h : p.length ≤ 255) :
    decodeWire (encodeFrame c p) = instrOfFrame ⟨c, p, checksum (frameBody c p)⟩ := by
  rw [decodeWire, decodeFrame_encodeFrame c h]

theorem reqEmpty_eq_ok_iff (c : CommandId) (i j : Instr) (p : Bytes) :
    reqEmpty c i p = .ok j ↔ p = [] ∧ i = j := by
  cases p <;> simp [reqEmpty]

theorem reqByte_eq_ok_iff (c : CommandId) (g : Byte → Instr) (j : Instr) (p : Bytes) :
    reqByte c g p = .ok j ↔ ∃ v, p = [v] ∧ g v = j := by
  match p with
  | [] => simp [reqByte]
  | [v] => simp [reqByte]
  | _ :: _ :: _ => simp [reqByte]

/-- A frame that reads as an operation is the frame of that operation. -/
theorem encodeWire_of_instrOfFrame {f : Frame} {i : Instr} (h : instrOfFrame f = .ok i) :
    encodeWire i = some (encodeFrame f.command f.payload) := by
  obtain ⟨c, p, cs⟩ := f
  cases c
  case startScan | stopScan | getDeviceInfo | selfTest | restoreFactorySettings =>
    obtain ⟨rfl, rfl⟩ := (reqEmpty_eq_ok_iff _ _ _ _).1 h
    rfl
  case setOutputFreq | setFilter | setSerialBaud | setFormatOutputData =>
    obtain ⟨v, rfl, rfl⟩ := (reqByte_eq_ok_iff _ _ _ _).1 h
    rfl

/-- The frame of an operation reads as that operation. -/
theorem decodeWire_of_encodeWire {i : Instr} {raw : Bytes} (h : encodeWire i = some raw) :
    decodeWire raw = .ok i := by
  cases i
  case encode | decode | readSample | teardown => cases h
  case startScan | stopScan | getDeviceInfo | selfTest | restoreFactorySettings =>
    cases h
    exact decodeWire_encodeFrame _ (by decide)
  case setOutputFreq v | setFilter v | setSerialBaud v | setFormatOutputData v =>
    cases h
    exact decodeWire_encodeFrame _ (p := [v]) (by simp)

/-- What reads as an operation is the frame of that operation, since `decode` accepts encoded frames only. -/
theorem encodeWire_of_decodeWire {i : Instr} {raw : Bytes} (h : decodeWire raw = .ok i) :
    encodeWire i = some raw := by
  unfold decodeWire at h
  split at h
  next => cases h
  next f hf =>
    obtain ⟨_, rfl, _⟩ := (decodeFrame_eq_ok_iff raw f).1 hf
    exact encodeWire_of_instrOfFrame h

theorem decodeRequest_encodeRequest (i : Instr) : decodeRequest (encodeRequest i) = .ok i := by
  cases i <;> rfl

/-- Settles O14: on the wire by the round trip of the codec, at the OP port by the round trip of the request record,
which makes its encoding injective. -/
theorem instructionEncodingsRoundTrip : Obligations.InstructionEncodingsRoundTrip := by
  refine ⟨fun i raw => decodeWire_of_encodeWire, fun i raw => encodeWire_of_decodeWire,
    decodeRequest_encodeRequest, fun i j h => ?_⟩
  have hdecoded := congrArg decodeRequest h
  rw [decodeRequest_encodeRequest, decodeRequest_encodeRequest] at hdecoded
  exact Except.ok.inj hdecoded

/-- Settles O15, by evaluation of the words. -/
theorem tableWordsDecode : Obligations.TableWordsDecode :=
  ⟨rfl, rfl, rfl, rfl, rfl, rfl, rfl, rfl, rfl, rfl, rfl, rfl, rfl, rfl, rfl⟩

end Sys2Proof.Machine
end

section
/-! Reasoning rules for requests and steps: what an operation does at rest, what waits, and what a step takes
(rules R55, R70, R74, R76). -/

namespace Sys2Proof.Machine

/-- With a transaction in flight and the port free, a request waits (rule R74). -/
theorem accept_held {r : Request} {e : State → State} {s : State} (hi : s.inflight.isSome) (hp : s.opPort = none) :
    accept r e s = .next { s with opPort := some r } := by
  obtain ⟨hn, _⟩ | ⟨_, _, h⟩ | ⟨_, ho, _⟩ := accept_cases r e s
  · simp [hn] at hi
  · exact h
  · simp [hp] at ho

/-- With nothing in flight, delivering a fault is a delivery alone. -/
theorem raise_eq {s : State} (f : Failure) (hi : s.inflight = none) : raise f s = deliver (.fault f) s := by
  simp [raise, setInflight, deliver, hi]

theorem issue_of_pass {t : Transaction} {s : State} (h : guardOf Config.stopWhenIdle t s.session = .pass) :
    issue t s = setInflight (some t) (send t s) := by
  rw [issue, h, issueWith]

theorem issue_of_reject {t : Transaction} {s : State} {f : Failure} (hi : s.inflight = none)
    (h : guardOf Config.stopWhenIdle t s.session = .reject f) : issue t s = deliver (.fault f) s := by
  rw [issue, h, issueWith, raise_eq f hi]

theorem issue_of_skip {t : Transaction} {s : State} (h : guardOf Config.stopWhenIdle t s.session = .skip) :
    issue t s = deliver (.ok .unit) s := by
  rw [issue, h, issueWith]

/-- At rest, the operation of a transaction is its ISSUE event. -/
theorem exec_of_transactionOf {i : Instr} {t : Transaction} {s : State} (ht : transactionOf i = some t)
    (hi : s.inflight = none) : exec i s = .next (issue t s) := by
  obtain ⟨rfl, _⟩ | ⟨_, e, he, hk⟩ := exec_cases i s
  · cases ht
  rw [he, accept_taken hi]
  obtain ⟨u, hu, _, rfl⟩ | ⟨_, _, rfl, _⟩ | ⟨_, rfl, _⟩ | ⟨hn, _⟩ := hk
  · cases ht.symm.trans hu
    rfl
  · cases ht
  · cases ht
  · cases ht.symm.trans hn

/-- At rest, an ill-formed operation is refused (rule R55). -/
theorem exec_of_refusal {i : Instr} {s : State} (h : operationEvent i = .refusal) (hi : s.inflight = none) :
    exec i s = .next (deliver (.fault .illegalRequest) s) := by
  obtain ⟨rfl, _⟩ | ⟨_, e, he, hk⟩ := exec_cases i s
  · cases h
  rw [he, accept_taken hi]
  obtain ⟨_, _, hissue, _⟩ | ⟨arg, data, rfl, rfl⟩ | ⟨_, rfl, _⟩ | ⟨_, _, rfl⟩ := hk
  · cases h.symm.trans hissue
  · have hw : wellFormed (.encode arg data) = false := by
      by_contra hw
      rw [operationEvent, if_pos (Bool.not_eq_false _ ▸ hw)] at h
      cases h
    rw [encodeResult_illFormed hw]
  · cases h
  · rw [refuse_eq hi]

theorem runRequest_of_ok {r : Request} {i : Instr} (s : State) (h : decodeRequest r = .ok i) :
    runRequest r s = exec i s := by
  rw [runRequest, h]

theorem runRequest_of_error {r : Request} {x : Reject} (s : State) (h : decodeRequest r = .error x) :
    runRequest r s = accept r refuse s := by
  rw [runRequest, h]

theorem runRequest_teardown {r : Request} (s : State) (h : r.opsel = opselTeardown) :
    runRequest r s = .next (teardown s) :=
  runRequest_of_ok s ((decodeRequest_teardown_iff r).2 h)

theorem canTake_of_none {s : State} (r : Request) (h : s.inflight = none) : canTake r s = true := by
  simp [canTake, h]

theorem canTake_of_teardown {r : Request} (s : State) (h : r.opsel = opselTeardown) : canTake r s = true := by
  simp [canTake, h]

/-- Where no waiting request can be taken, the step runs the request the host presents. -/
theorem step_of_request {s : State} {r : Request} {rest : List HostEvent} (hn : NothingToTake s)
    (h : s.inputs = .request r :: rest) : step s = runRequest r { s with inputs := rest } := by
  rw [step_of_nothingToTake hn, presentNext, h]

theorem step_of_rx {s : State} {ev : RxEvent} {rest : List HostEvent} (hn : NothingToTake s)
    (h : s.inputs = .rx ev :: rest) : step s = presentRx ev { s with inputs := rest } := by
  rw [step_of_nothingToTake hn, presentNext, h]

theorem step_of_reset {s : State} {rest : List HostEvent} (hn : NothingToTake s)
    (h : s.inputs = .reset :: rest) : step s = .next (resetEvent { s with inputs := rest }) := by
  rw [step_of_nothingToTake hn, presentNext, h]

/-- Where a waiting request cannot be taken, only a presented one is. -/
theorem inputs_of_takes {s : State} {r : Request} (hn : NothingToTake s) (h : Takes s r) :
    ∃ rest, s.inputs = .request r :: rest := by
  obtain ⟨hp, hc⟩ | ⟨_, hrest⟩ := h
  · rw [hn r hp] at hc
    cases hc
  · exact hrest

/-- A step takes one request at most. -/
theorem Takes.unique {s : State} {r q : Request} (hr : Takes s r) (hq : Takes s q) : r = q := by
  obtain ⟨hp, hc⟩ | ⟨hn, _, h⟩ := id hr
  · obtain ⟨hp', _⟩ | ⟨hn, _⟩ := hq
    · exact Option.some.inj (hp.symm.trans hp')
    · rw [hn r hp] at hc
      cases hc
  · obtain ⟨_, h'⟩ := inputs_of_takes hn hq
    cases h.symm.trans h'
    rfl

/-- Two states that differ at most in the OP port and in what the host presents. -/
def SameBlock (s s₀ : State) : Prop :=
  s₀.session = s.session ∧ s₀.inflight = s.inflight ∧ s₀.tx = s.tx ∧ s₀.res = s.res

/-- What a step that goes on has done: `Took`, with a waiting and a presented request as one case. -/
inductive Advanced (s : State) : State → Prop
  | request (r : Request) (s₀ s' : State) : Takes s r → SameBlock s s₀ → runRequest r s₀ = .next s' → Advanced s s'
  | nothing : NothingToTake s → s.inputs = [] → Advanced s s
  | reset (rest : List HostEvent) : NothingToTake s → s.inputs = .reset :: rest →
      Advanced s (resetEvent { s with inputs := rest })
  | completed (t : Transaction) (ev : RxEvent) (rest : List HostEvent) : NothingToTake s →
      s.inputs = .rx ev :: rest → s.inflight = some t → Advanced s (complete t ev { s with inputs := rest })

theorem advanced {s s' : State} (h : step s = .next s') : Advanced s s' := by
  have htook := took s
  rw [h] at htook
  generalize eventAt s = event at htook
  cases htook with
  | waiting r _ _ hp hc _ =>
    refine .request r { s with opPort := none } s' (.inl ⟨hp, hc⟩) ⟨rfl, rfl, rfl, rfl⟩ ?_
    rw [← step_of_canTake hp hc, h]
  | nothing hn hi => exact .nothing hn hi
  | request r rest _ _ hn hi _ =>
    refine .request r { s with inputs := rest } s' (.inr ⟨hn, rest, hi⟩) ⟨rfl, rfl, rfl, rfl⟩ ?_
    rw [← step_of_request hn hi, h]
  | reset rest hn hi => exact .reset rest hn hi
  | completed t ev rest hn hi hf => exact .completed t ev rest hn hi hf

/-- What a request that was run has done. -/
theorem ran_of_runRequest {s s' : State} {r : Request} (h : runRequest r s = .next s') :
    ∃ e, Ran s r e (.next s') := ⟨_, h ▸ ran s r⟩

end Sys2Proof.Machine
end

section
/-! Ill-formed requests (rule R55): the operations the check refuses are those whose event is a refusal. -/

namespace Sys2Proof.Machine

theorem issueEvent_eq_refusal_iff (o : Option Transaction) : issueEvent o = .refusal ↔ o = none := by
  cases o <;> simp [issueEvent]

/-- The check of rule R55 refuses exactly the operations whose request is refused. -/
theorem operationEvent_eq_refusal_iff (i : Instr) : operationEvent i = .refusal ↔ wellFormed i = false := by
  cases i with
  | setOutputFreq arg =>
    rw [operationEvent, issueEvent_eq_refusal_iff, freqOperand, Option.map_eq_none_iff, freqOfByte_eq_none_iff,
      wellFormed, decide_eq_false_iff_not]
    bv_omega
  | setFilter arg =>
    rw [operationEvent, issueEvent_eq_refusal_iff, filterOperand, Option.map_eq_none_iff, filterOfByte_eq_none_iff,
      wellFormed, decide_eq_false_iff_not]
    bv_omega
  | setSerialBaud arg =>
    rw [operationEvent, issueEvent_eq_refusal_iff, baudOperand, Option.map_eq_none_iff, baudOfByte_eq_none_iff,
      wellFormed, decide_eq_false_iff_not]
    bv_omega
  | encode arg data => cases h : wellFormed (.encode arg data) <;> simp [operationEvent, h]
  | _ => simp [operationEvent, wellFormed]

/-- At rest, an operation that the check refuses delivers `IllegalRequest` and nothing else. -/
theorem exec_of_illFormed {i : Instr} {s : State} (h : wellFormed i = false) (hi : s.inflight = none) :
    exec i s = .next (deliver (.fault .illegalRequest) s) :=
  exec_of_refusal ((operationEvent_eq_refusal_iff i).2 h) hi

/-- An ill-formed request names no operation, or one that the check refuses. -/
theorem decodeRequest_of_illFormed {r : Request} (h : IllFormedRequest r) :
    (∃ x, decodeRequest r = .error x) ∨ ∃ i, decodeRequest r = .ok i ∧ wellFormed i = false := by
  obtain ⟨opsel, arg, data⟩ := r
  obtain h | ⟨rfl, h⟩ | ⟨rfl, h⟩ | ⟨rfl, h⟩ | ⟨rfl, h⟩ | ⟨rfl, h⟩ := h
  · exact .inl ⟨_, decodeRequest_reserved h⟩
  · have hcmd := (cmdOfOpcode_eq_none_iff arg).2 h
    exact .inr ⟨.encode arg data, rfl, by simp [wellFormed, isOpcodeByte_iff, hcmd]⟩
  · exact .inr ⟨.encode arg data, rfl, by simp [wellFormed, Nat.not_le.2 h]⟩
  · refine .inr ⟨.setOutputFreq arg, rfl, decide_eq_false ?_⟩
    bv_omega
  · refine .inr ⟨.setFilter arg, rfl, decide_eq_false ?_⟩
    bv_omega
  · refine .inr ⟨.setSerialBaud arg, rfl, decide_eq_false ?_⟩
    bv_omega

/-- At rest, an ill-formed request delivers `IllegalRequest` and nothing else. -/
theorem runRequest_of_illFormed {r : Request} {s : State} (h : IllFormedRequest r) (hi : s.inflight = none) :
    runRequest r s = .next (deliver (.fault .illegalRequest) s) := by
  obtain ⟨x, hx⟩ | ⟨i, hd, hw⟩ := decodeRequest_of_illFormed h
  · rw [runRequest_of_error s hx, accept_taken hi, refuse_eq hi]
  · rw [runRequest_of_ok s hd, exec_of_illFormed hw hi]

/-- Settles O16: an ill-formed request is refused wherever it is taken, and a reserved OPSEL waits like any other. -/
theorem illFormedRequestsAreRefused : Obligations.IllFormedRequestsAreRefused := by
  refine fun s r => ⟨fun h hi => ⟨fun rest hp hin => ?_, fun hp => ?_⟩, fun h hi hp rest hin => ?_⟩
  · exact (step_of_request (nothingToTake_of_none hp) hin).trans (runRequest_of_illFormed h hi)
  · exact (step_of_canTake hp (canTake_of_none r hi)).trans (runRequest_of_illFormed h hi)
  · rw [step_of_request (nothingToTake_of_none hp) hin, runRequest_of_error _ (decodeRequest_reserved h)]
    exact accept_held hi hp

theorem encodeResult_of_wellFormed {arg : Byte} {data : Bytes} (h : wellFormed (.encode arg data) = true) :
    ∃ bs, encodeResult arg data = .ok (.bytes bs) := by
  simp only [wellFormed, isOpcodeByte_iff, Bool.and_eq_true, decide_eq_true_iff] at h
  obtain ⟨hcmd, hlen⟩ := h
  obtain ⟨c, hc⟩ := Option.isSome_iff_exists.1 hcmd
  exact ⟨encodeFrame c data, by simp [encodeResult, hc, hlen]⟩

/-- The faults of the guard (rules R68, R104, R105). -/
theorem guardOf_eq_reject {p : StopWhenIdle} {t : Transaction} {st : SessionState} {f : Failure}
    (h : guardOf p t st = .reject f) :
    (st = .scanning ∧ f = .operationNotAllowedWhileScanning) ∨
      (t = .stopScan ∧ st = .idle ∧ p = .reject ∧ f = .operationRequiresScanning) := by
  cases t with
  | readSample => cases h
  | stopScan =>
    cases st <;> cases p <;> cases h
    exact .inr ⟨rfl, rfl, rfl, rfl⟩
  | _ =>
    cases st <;> cases h
    exact .inl ⟨rfl, rfl⟩

/-- A result that ISSUE delivers is no `IllegalRequest`: the guard has no such fault. -/
theorem issue_res_ne_illegalRequest (t : Transaction) (s : State) :
    (issue t s).res ≠ s.res ++ [.fault .illegalRequest] := by
  intro h
  obtain ⟨f, hg, hs⟩ | ⟨_, hs⟩ | ⟨_, hs⟩ := issue_cases t s
  · obtain rfl : f = .illegalRequest := by simpa [hs] using h
    obtain ⟨_, hf⟩ | ⟨_, _, _, hf⟩ := guardOf_eq_reject hg <;> cases hf
  · simp [hs] at h
  · simp [hs] at h

/-- Settles O17: of the well-formed operations none delivers `IllegalRequest`. -/
theorem illegalRequestExactlyWhenIllFormed : Obligations.IllegalRequestExactlyWhenIllFormed := by
  refine fun i s hi => ⟨fun h => ?_, fun h => exec_of_illFormed h hi⟩
  by_contra hw
  rw [Bool.not_eq_false] at hw
  obtain ⟨_, he⟩ | ⟨_, e, he, hk⟩ := exec_cases i s
  · have hres := congrArg State.res (Host.Outcome.next.inj (he.symm.trans h))
    simp at hres
  rw [he, accept_taken hi] at h
  have hres : (e s).res = s.res ++ [.fault .illegalRequest] := congrArg State.res (Host.Outcome.next.inj h)
  obtain ⟨t, _, _, rfl⟩ | ⟨arg, data, rfl, rfl⟩ | ⟨data, _, rfl⟩ | ⟨_, hev, _⟩ := hk
  · exact issue_res_ne_illegalRequest t s hres
  · obtain ⟨bs, hbs⟩ := encodeResult_of_wellFormed hw
    simp [hbs] at hres
  · obtain ⟨f, hd⟩ | hd | ⟨x, a, hd⟩ := decodeResult_cases data <;> simp [hd] at hres
  · rw [(operationEvent_eq_refusal_iff i).1 hev] at hw
    cases hw

end Sys2Proof.Machine
end

section
/-! What a step runs, when requests wait, where a step stops, and what ends a wait (rules R36, R74, R133). -/

namespace Sys2Proof.Machine

/-- A request that names an operation can be taken when nothing is in flight, or when the operation is TEARDOWN. -/
theorem canTake_of_decodeRequest {s : State} {r : Request} {i : Instr} (h : s.inflight = none ∨ i = .teardown)
    (hd : decodeRequest r = .ok i) : canTake r s = true := by
  obtain hi | rfl := h
  · exact canTake_of_none r hi
  · exact canTake_of_teardown s ((decodeRequest_teardown_iff r).1 hd)

theorem step_of_waiting {s : State} {r : Request} {i : Instr} (hp : s.opPort = some r)
    (h : s.inflight = none ∨ i = .teardown) (hd : decodeRequest r = .ok i) :
    step s = exec i { s with opPort := none } := by
  rw [step_of_canTake hp (canTake_of_decodeRequest h hd), runRequest_of_ok _ hd]

/-- Settles O18: a table word is presented as the request of its operation, which decodes to it again. -/
theorem stepRunsTheDecodedInstruction : Obligations.StepRunsTheDecodedInstruction := by
  refine ⟨fun s r i => step_of_waiting, fun s r rest i hn hin hd => ?_, fun s n w i h hw => ?_⟩
  · rw [step_of_request hn hin, runRequest_of_ok _ hd]
  · have hd : decodeRequest (requestOfTableWord n w) = .ok i := by
      rw [requestOfTableWord, hw]
      exact decodeRequest_encodeRequest i
    exact step_of_waiting (withFetchWord_opPort s n w) h hd

/-- Settles O19: the request that waits is the operation's own. -/
theorem requestsWaitWhileInFlight : Obligations.RequestsWaitWhileInFlight := by
  intro i s hi hp hne
  obtain ⟨ht, _⟩ | ⟨_, e, he, _⟩ := exec_cases i s
  · exact absurd ht hne
  · exact ⟨encodeRequest i, decodeRequest_encodeRequest i, by rw [he, accept_held hi hp]⟩

/-- A request goes on unless it is the second at the port. -/
theorem runRequest_goesOn_iff (r : Request) (s : State) :
    (∃ t, runRequest r s = .next t) ↔ s.inflight = none ∨ r.opsel = opselTeardown ∨ s.opPort = none := by
  have hran := ran s r
  generalize eventAtOp r s = e at hran
  generalize runRequest r s = o at hran ⊢
  cases hran with
  | tornDown _ ho => exact iff_of_true ⟨_, rfl⟩ (.inr (.inl ho))
  | issued _ _ _ _ hi => exact iff_of_true ⟨_, rfl⟩ (.inl hi)
  | encoded _ _ _ hi => exact iff_of_true ⟨_, rfl⟩ (.inl hi)
  | decoded _ _ hi => exact iff_of_true ⟨_, rfl⟩ (.inl hi)
  | refused _ hi => exact iff_of_true ⟨_, rfl⟩ (.inl hi)
  | held _ _ _ hp => exact iff_of_true ⟨_, rfl⟩ (.inr (.inr hp))
  | stopped ho hi hp =>
    refine iff_of_false (by simp) ?_
    rintro (h | h | h)
    · simp [h] at hi
    · exact ho h
    · simp [h] at hp

/-- An RX event goes on where something is in flight, a timeout only where the parameter allows timeouts. -/
theorem presentRx_goesOn_iff (ev : RxEvent) (s : State) :
    (∃ t, presentRx ev s = .next t) ↔ s.inflight.isSome ∧ (ev = .timeout → Config.hasTimeout = true) := by
  obtain hi | ⟨t, hi⟩ := Option.eq_none_or_eq_some s.inflight
  · rw [presentRx_none hi]
    simp [hi]
  cases ev with
  | burst raw =>
    rw [presentRx_burst hi]
    simp [hi]
  | timeout =>
    rw [presentRx_timeout hi]
    cases Config.hasTimeout <;> simp [hi]

/-- What the host presents next goes on exactly where it keeps the duties. -/
theorem presentNext_goesOn_iff (s : State) : (∃ t, presentNext s = .next t) ↔ NextEventKeepsDuties s := by
  unfold presentNext NextEventKeepsDuties
  cases s.inputs with
  | nil => exact iff_of_true ⟨s, rfl⟩ trivial
  | cons e rest =>
    cases e with
    | request r => exact runRequest_goesOn_iff r _
    | reset => exact iff_of_true ⟨_, rfl⟩ trivial
    | rx ev =>
      refine (presentRx_goesOn_iff ev _).trans ?_
      cases ev <;> simp

theorem Ran.ne_refused {s : State} {r : Request} {e : Option Event} {o : Host.Outcome State Fault Refusal}
    (h : Ran s r e o) (x : Refusal) : o ≠ .refused x := by
  cases h <;> simp

theorem step_ne_refused (s : State) (x : Refusal) : step s ≠ .refused x := by
  have htook := took s
  generalize eventAt s = e at htook
  generalize step s = o at htook
  cases htook with
  | waiting _ _ _ _ _ hran => exact hran.ne_refused x
  | request _ _ _ _ _ _ hran => exact hran.ne_refused x
  | _ => simp

/-- Settles O20: a waiting request that can be taken leaves the port free and goes on, and otherwise the step takes
what the host presents next. -/
theorem stopsAreBrokenHostDuties : Obligations.StopsAreBrokenHostDuties := by
  refine ⟨fun s => ?_, step_ne_refused⟩
  by_cases hn : NothingToTake s
  · rw [step_of_nothingToTake hn, presentNext_goesOn_iff]
    refine ⟨.inl, fun h => h.resolve_right ?_⟩
    rintro ⟨r, hp, hc⟩
    rw [hn r hp] at hc
    cases hc
  · obtain ⟨r, hr⟩ := not_forall.1 hn
    obtain ⟨hp, hc⟩ := Classical.not_imp.1 hr
    rw [Bool.not_eq_false] at hc
    rw [step_of_canTake hp hc, runRequest_goesOn_iff]
    exact iff_of_true (.inr (.inr rfl)) (.inr ⟨r, hp, hc⟩)

/-- Settles O47: a timeout is judged without a look at the transaction. -/
theorem timeoutEndsTheWait : Obligations.TimeoutEndsTheWait :=
  fun _ _ hi => presentRx_timeout hi

/-- A request other than TEARDOWN, while a transaction is in flight, only comes to wait. -/
theorem held_of_runRequest {r : Request} {s s' : State} (hi : s.inflight.isSome) (hr : r.opsel ≠ opselTeardown)
    (h : runRequest r s = .next s') : ∃ q, s' = { s with opPort := some q } := by
  obtain ⟨e, hran⟩ := ran_of_runRequest h
  cases hran with
  | tornDown _ ho => exact absurd ho hr
  | held q => exact ⟨q, rfl⟩
  | issued _ _ _ _ hn => simp [hn] at hi
  | encoded _ _ _ hn => simp [hn] at hi
  | decoded _ _ hn => simp [hn] at hi
  | refused _ hn => simp [hn] at hi

/-- Settles O21: each event, taken while the transaction is in flight. -/
theorem silentDeviceHangsTheTransaction : Obligations.SilentDeviceHangsTheTransaction := by
  refine fun s t hi hn => ⟨fun hin k => run_of_stopped ⟨hn, hin⟩ k, fun r rest s' hin hr h => ?_,
    fun r rest hin hr => ?_, fun rest hin => ?_, fun rest hin => ?_⟩
  · rw [step_of_request hn hin] at h
    obtain ⟨q, rfl⟩ := held_of_runRequest (by simp [hi]) hr h
    exact ⟨hi, rfl, rfl, rfl⟩
  · refine ⟨_, (step_of_request hn hin).trans (runRequest_teardown _ hr), ?_, ?_⟩
    · rw [teardown_inflight]
    · rw [teardown_res]
  · exact ⟨_, step_of_reset hn hin, rfl, rfl⟩
  · rw [step_of_rx hn hin]
    exact timeoutEndsTheWait _ t hi

end Sys2Proof.Machine
end

section
/-! The guards (rules R68, R81, R104, R105): what is rejected while Scanning, and STOP_SCAN in Idle. -/

namespace Sys2Proof.Machine

/-- The guard of a command that requires Idle reads nothing but STATE. -/
theorem guardOf_of_requires_idle {t : Transaction} (h : requiredState t = some .idle) (p : StopWhenIdle)
    (st : SessionState) : guardOf p t st = guardOf.idleGuard st := by
  cases t with
  | stopScan => cases h
  | readSample => cases h
  | _ => rfl

/-- The guard passes exactly in the state the catalog requires, if it requires one (rules R67, R68). -/
theorem guardOf_eq_pass_iff (p : StopWhenIdle) (t : Transaction) (st : SessionState) :
    guardOf p t st = .pass ↔ ∀ required, requiredState t = some required → st = required := by
  cases t with
  | readSample => simp [guardOf, requiredState]
  | stopScan => simpa [requiredState] using guardOf_stopScan_eq_pass_iff p st
  | _ =>
    rw [guardOf_of_requires_idle rfl, idleGuard_eq_pass_iff]
    simp [requiredState]

/-- In Scanning, an operation that requires Idle is rejected and changes nothing else. -/
theorem exec_rejected_of_scanning {i : Instr} {s : State}
    (h : (transactionOf i).bind requiredState = some .idle) (hi : s.inflight = none) (hs : s.session = .scanning) :
    exec i s = .next { s with res := s.res ++ [.fault .operationNotAllowedWhileScanning] } := by
  obtain ⟨t, ht, hreq⟩ := Option.bind_eq_some_iff.1 h
  have hguard : guardOf Config.stopWhenIdle t s.session = .reject .operationNotAllowedWhileScanning := by
    rw [hs, guardOf_of_requires_idle hreq]
    rfl
  rw [exec_of_transactionOf ht hi, issue_of_reject hi hguard, deliver]

/-- Settles O22: each operation of the list asks for a transaction that requires Idle. -/
theorem commandsAreRejectedWhileScanning : Obligations.CommandsAreRejectedWhileScanning := by
  refine fun s hi hs i hmem => exec_rejected_of_scanning ?_ hi hs
  revert i
  decide

/-- Settles O23: the same rejection, for every operand byte. -/
theorem setFormatIsRejectedWhileScanning : Obligations.SetFormatIsRejectedWhileScanning :=
  fun _ v hi hs => exec_rejected_of_scanning (i := .setFormatOutputData v) rfl hi hs

/-- Settles O24: the guard's two answers, by the parameter. -/
theorem stopScanInIdle : Obligations.StopScanInIdle := by
  intro s hi hs
  rw [exec_of_transactionOf (i := .stopScan) rfl hi]
  cases hp : Config.stopWhenIdle with
  | reject => rw [issue_of_reject hi (by rw [hs, hp]; rfl), deliver]
  | noOp => rw [issue_of_skip (by rw [hs, hp]; rfl), deliver]

theorem guardOf_eq_requiresScanning_iff (p : StopWhenIdle) (t : Transaction) (st : SessionState) :
    guardOf p t st = .reject .operationRequiresScanning ↔ t = .stopScan ∧ st = .idle ∧ p = .reject := by
  constructor
  · intro h
    obtain ⟨_, hf⟩ | ⟨ht, hs, hp, _⟩ := guardOf_eq_reject h
    · cases hf
    · exact ⟨ht, hs, hp⟩
  · rintro ⟨rfl, rfl, rfl⟩
    rfl

/-- COMPLETE has no guard, so none of its faults is `OperationRequiresScanning`. -/
theorem completeResult_ne_requiresScanning (t : Transaction) (ev : RxEvent) :
    completeResult t ev ≠ .fault .operationRequiresScanning := by
  intro h
  obtain ⟨_, hx⟩ | ⟨_, hx⟩ | hx | ⟨_, _, hx⟩ | ⟨_, _, _, _, _, hr⟩ := completeResult_fault h
  iterate 4 cases hx
  obtain hx | ⟨_, _, _, _, _, _, hx⟩ | ⟨_, _, _, _, _, _, _, hx⟩ := rspDecode_fault hr <;> cases hx

theorem encodeResult_ne_requiresScanning (arg : Byte) (data : Bytes) :
    encodeResult arg data ≠ .fault .operationRequiresScanning := by
  intro h
  obtain ⟨bs, hr⟩ | hr := encodeResult_cases arg data <;> cases hr.symm.trans h

theorem decodeResult_ne_requiresScanning (data : Bytes) :
    decodeResult data ≠ .fault .operationRequiresScanning := by
  intro h
  obtain ⟨f, hr⟩ | hr | ⟨e, a, hr⟩ := decodeResult_cases data <;> cases hr.symm.trans h

/-- An ISSUE that delivers `OperationRequiresScanning` is that of STOP_SCAN, rejected in Idle. -/
theorem stopScan_of_issue_requiresScanning {t : Transaction} {s : State}
    (h : (issue t s).res = s.res ++ [.fault .operationRequiresScanning]) :
    t = .stopScan ∧ s.session = .idle ∧ Config.stopWhenIdle = .reject := by
  obtain ⟨f, hg, hs⟩ | ⟨_, hs⟩ | ⟨_, hs⟩ := issue_cases t s
  · obtain rfl : f = .operationRequiresScanning := by simpa [hs] using h
    exact (guardOf_eq_requiresScanning_iff _ _ _).1 hg
  · simp [hs] at h
  · simp [hs] at h

/-- The requests that deliver `OperationRequiresScanning`. -/
theorem runRequest_requiresScanning_iff {s s' : State} {r : Request} (h : runRequest r s = .next s') :
    s'.res = s.res ++ [.fault .operationRequiresScanning] ↔
      Config.stopWhenIdle = .reject ∧ s.session = .idle ∧ s.inflight = none ∧ decodeRequest r = .ok .stopScan := by
  constructor
  · intro hres
    obtain ⟨e, hran⟩ := ran_of_runRequest h
    cases hran with
    | tornDown => simp at hres
    | issued i t hd ht hi =>
      obtain ⟨rfl, hs, hp⟩ := stopScan_of_issue_requiresScanning hres
      obtain rfl := eq_instrOf_of_transactionOf ht
      exact ⟨hp, hs, hi, hd⟩
    | encoded arg data => exact absurd (by simpa using hres) (encodeResult_ne_requiresScanning arg data)
    | decoded data => exact absurd (by simpa using hres) (decodeResult_ne_requiresScanning data)
    | refused => simp at hres
    | held => simp at hres
  · rintro ⟨hp, hs, hi, hd⟩
    rw [runRequest_of_ok s hd, stopScanInIdle s hi hs, hp] at h
    cases h
    rfl

/-- Settles O25: only a request can deliver the fault, and the step takes no other request than that one. -/
theorem requiresScanningHasOneCause : Obligations.RequiresScanningHasOneCause := by
  refine ⟨fun s s' h => ?_, guardOf_eq_requiresScanning_iff, fun _ _ => rfl, completeResult_ne_requiresScanning,
    encodeResult_ne_requiresScanning, decodeResult_ne_requiresScanning⟩
  cases advanced h with
  | request r s₀ _ htakes hsame hrun =>
    obtain ⟨hsession, hinflight, _, hres⟩ := hsame
    have hiff := runRequest_requiresScanning_iff hrun
    rw [hsession, hinflight, hres] at hiff
    rw [hiff]
    refine and_congr_right' (and_congr_right' (and_congr_right' ⟨fun hd => ⟨r, htakes, hd⟩, ?_⟩))
    rintro ⟨q, hq, hd⟩
    rwa [htakes.unique hq]
  | nothing hn hin =>
    refine iff_of_false (by simp) ?_
    rintro ⟨_, _, _, r, hr, _⟩
    obtain ⟨rest, hrest⟩ := inputs_of_takes hn hr
    cases hin.symm.trans hrest
  | reset rest hn hin =>
    refine iff_of_false (by simp) ?_
    rintro ⟨_, _, _, r, hr, _⟩
    obtain ⟨rest, hrest⟩ := inputs_of_takes hn hr
    cases hin.symm.trans hrest
  | completed t ev rest hn hin hi =>
    obtain ⟨_, _, _, _, hres⟩ := complete_frame t ev { s with inputs := rest }
    refine iff_of_false (fun h => completeResult_ne_requiresScanning t ev ?_) ?_
    · simpa [hres] using h
    · rintro ⟨_, _, hnone, _⟩
      cases hi.symm.trans hnone

end Sys2Proof.Machine
end

section
/-! How a response is judged and how COMPLETE ends (rules R71, R72). -/

namespace Sys2Proof.Machine

theorem completeResult_of_error {t : Transaction} {raw : Bytes} {x : Failure} (hraw : raw ≠ [])
    (hd : decodeFrame raw = .error x) : completeResult t (.burst raw) = .fault x := by
  simp [completeResult, hraw, hd]

theorem ne_nil_of_decodeFrame {raw : Bytes} {f : Frame} (hd : decodeFrame raw = .ok f) : raw ≠ [] := by
  rintro rfl
  cases hd

/-- A sound answer that the transaction accepts is judged by its payload (rule R72 step 5). -/
theorem completeResult_of_answers {t : Transaction} {raw : Bytes} {f : Frame} (hd : decodeFrame raw = .ok f)
    (ha : answers t f.command = true) : completeResult t (.burst raw) = rspDecode t f.payload := by
  simp [completeResult, ne_nil_of_decodeFrame hd, hd, ha]

/-- A sound answer that the transaction does not accept is a malformed one (rule R72 step 4). -/
theorem completeResult_of_not_answers {t : Transaction} {raw : Bytes} {f : Frame} (hd : decodeFrame raw = .ok f)
    (ha : answers t f.command = false) : completeResult t (.burst raw) = .fault .malformedFrame := by
  simp [completeResult, ne_nil_of_decodeFrame hd, hd, ha]

theorem completeResult_encodeFrame {t : Transaction} {c : CommandId} {p : Bytes} (hp : p.length ≤ 255)
    (ha : answers t c = true) : completeResult t (.burst (encodeFrame c p)) = rspDecode t p :=
  completeResult_of_answers (decodeFrame_encodeFrame c hp) ha

/-- Settles O41. -/
theorem responseTestsInOrder : Obligations.ResponseTestsInOrder := by
  refine fun t => ⟨rfl, rfl, fun raw x => completeResult_of_error, fun raw f c hd hc hne => ?_,
    fun raw f hd ha => completeResult_of_answers hd ?_⟩
  · refine completeResult_of_not_answers hd ?_
    rw [answers, hc]
    simpa using hne.symm
  · obtain rfl | hc := ha
    · rfl
    · exact (answers_iff t f.command).2 (.inr hc)

/-- Settles O46, by the two ways COMPLETE can go. -/
theorem completeClearsAndDelivers : Obligations.CompleteClearsAndDelivers := by
  intro s t raw rest hi hn hin
  rw [step_of_rx hn hin, presentRx_burst (s := { s with inputs := rest }) hi]
  obtain ⟨v, hr, hs⟩ | ⟨f, hr, hs⟩ := complete_cases t (.burst raw) { s with inputs := rest }
  · rw [hs, hr]
  · rw [hs, hr]

/-- An answer of a transaction's own command that its decoder accepts. -/
theorem presentRx_encodeFrame_ok {s : State} {t : Transaction} {c : CommandId} {p : Bytes} {v : Value}
    (hi : s.inflight = some t) (hp : p.length ≤ 255) (ha : answers t c = true) (hr : rspDecode t p = .ok v) :
    presentRx (.burst (encodeFrame c p)) s =
      .next { s with session := nextState t s.session, inflight := none, res := s.res ++ [.ok v] } := by
  rw [presentRx_burst hi, complete, completeResult_encodeFrame hp ha, hr]
  rfl

/-- An answer of a transaction's own command, where the transaction is no transition: the decoder's result is
delivered, and the state is otherwise what it was at rest. -/
theorem presentRx_encodeFrame_keeps {s : State} {t : Transaction} {c : CommandId} {p : Bytes}
    (hi : s.inflight = none) (ht : ∀ st, nextState t st = st) (hp : p.length ≤ 255) (ha : answers t c = true) :
    presentRx (.burst (encodeFrame c p)) { s with inflight := some t } =
      .next { s with res := s.res ++ [rspDecode t p] } := by
  rw [presentRx_burst (t := t) rfl, complete, completeResult_encodeFrame hp ha]
  cases rspDecode t p with
  | ok v => simp [finish, deliver, setSession, setInflight, ht, hi]
  | fault f => simp [finish, raise, deliver, setInflight, hi]

end Sys2Proof.Machine
end

section
/-! The payload decoders on every payload (rules R85, R89, R90, R92, R93). -/

namespace Sys2Proof.Machine

theorem sampleDecode_of_short {p : Bytes} (h : p.length < 4) : sampleDecode p = .fault .malformedFrame := by
  unfold sampleDecode
  split
  · simp at h
    omega
  · rfl

/-- The distance of a sample, low byte first (rule R27). -/
theorem sample_distance_toNat (lo hi : Byte) :
    (lo.zeroExtend 16 ||| (hi.zeroExtend 16 <<< 8)).toNat = lo.toNat + 256 * hi.toNat := by
  have hlo : lo.toNat < 2 ^ 8 := lo.isLt
  have hhi : hi.toNat < 2 ^ 8 := hi.isLt
  have hor := Nat.shiftLeft_add_eq_or_of_lt hlo hi.toNat
  rw [Nat.or_comm, Nat.shiftLeft_eq] at hor
  rw [BitVec.toNat_or, BitVec.toNat_shiftLeft, BitVec.toNat_setWidth, BitVec.toNat_setWidth, Nat.shiftLeft_eq,
    Nat.mod_eq_of_lt (a := lo.toNat) (by omega), Nat.mod_eq_of_lt (a := hi.toNat) (by omega),
    Nat.mod_eq_of_lt (by omega), ← hor]
  omega

/-- The loop of `serial_parse` appends the digits to the number read so far. -/
theorem serialFrom_eq_some_iff (m n : Nat) (digits : Bytes) :
    serialFrom m digits = some n ↔
      (∀ d ∈ digits, d.toNat ≤ 9) ∧
        n = m * 10 ^ digits.length + Nat.ofDigits 10 (digits.reverse.map BitVec.toNat) := by
  induction digits generalizing m with
  | nil => simp [serialFrom, eq_comm]
  | cons d ds ih =>
    have hvalue : (m * 10 + d.toNat) * 10 ^ ds.length + Nat.ofDigits 10 (ds.reverse.map BitVec.toNat) =
        m * 10 ^ (d :: ds).length + Nat.ofDigits 10 ((d :: ds).reverse.map BitVec.toNat) := by
      simp only [List.reverse_cons, List.map_append, Nat.ofDigits_append, List.length_map, List.length_reverse,
        List.map_cons, List.map_nil, Nat.ofDigits_singleton, List.length_cons]
      ring
    by_cases hd : d.toNat ≤ 9
    · rw [serialFrom, if_neg (by omega), ih, hvalue]
      simp [hd]
    · rw [serialFrom, if_pos (by omega)]
      simp [hd]

theorem serialParse_eq_some_iff (digits : Bytes) (n : Nat) :
    serialParse digits = some n ↔
      (∀ d ∈ digits, d.toNat ≤ 9) ∧ n = Nat.ofDigits 10 (digits.reverse.map BitVec.toNat) := by
  rw [serialParse, serialFrom_eq_some_iff]
  simp

/-- Settles O33: the numeral is the library's, whose value is below the power of its length. -/
theorem serialNumberIsTheDecimalNumeral : Obligations.SerialNumberIsTheDecimalNumeral := by
  refine fun digits n => ⟨serialParse_eq_some_iff digits n, fun h => ?_⟩
  obtain ⟨hdigits, rfl⟩ := (serialParse_eq_some_iff digits n).1 h
  have hlt : ∀ x ∈ digits.reverse.map BitVec.toNat, x < 10 := by
    intro x hx
    obtain ⟨d, hd, rfl⟩ := List.mem_map.1 hx
    exact Nat.lt_succ_of_le (hdigits d (List.mem_reverse.1 hd))
  simpa using Nat.ofDigits_lt_base_pow_length (by decide) hlt

theorem versionDecode_of_digits (m h a b : Byte) {digits : Bytes} (hd : ∀ d ∈ digits, d.toNat ≤ 9) :
    versionDecode (m :: h :: a :: b :: digits) =
      .ok (.version ⟨m, h, a, b, Nat.ofDigits 10 (digits.reverse.map BitVec.toNat)⟩) := by
  rw [versionDecode, (serialParse_eq_some_iff digits _).2 ⟨hd, rfl⟩]

theorem versionDecode_of_bad_digit (m h a b : Byte) {digits : Bytes} (hd : ∃ d ∈ digits, 9 < d.toNat) :
    versionDecode (m :: h :: a :: b :: digits) = .fault .malformedFrame := by
  have hnone : serialParse digits = none := by
    refine Option.eq_none_iff_forall_ne_some.2 fun n hn => ?_
    obtain ⟨d, hmem, hlt⟩ := hd
    have hle := ((serialParse_eq_some_iff digits n).1 hn).1 d hmem
    omega
  rw [versionDecode, hnone]

theorem versionDecode_of_short {p : Bytes} (h : p.length < 4) : versionDecode p = .fault .malformedFrame := by
  unfold versionDecode
  split
  · simp at h
    omega
  · rfl

theorem selftestDecode_cons (flag code : Byte) (rest : Bytes) :
    selftestDecode (flag :: code :: rest) =
      if flag = 0x01 then .ok (.selfTest ⟨true, code, rest⟩) else .fault (.selfTestFailed code) := by
  rw [selftestDecode, ite_not]

theorem selftestDecode_of_short {p : Bytes} (h : p.length < 2) : selftestDecode p = .fault .malformedFrame := by
  unfold selftestDecode
  split
  · simp at h
  · rfl

theorem echoDecode_cons (sent echoed : Byte) (more : Bytes) :
    echoDecode sent (echoed :: more) =
      if echoed = sent then .ok .unit else .fault (.configurationRejected sent echoed) := by
  rw [echoDecode, ite_not]

end Sys2Proof.Machine
end

section
/-! The operations, from their request to their result (rules R60, R62, R70, R82 to R98). -/

namespace Sys2Proof.Machine

theorem send_of_cmdOf {t : Transaction} {c : CommandId} (s : State) (h : cmdOf t = some c) :
    send t s = emit (encodeFrame c (reqPayload t)) s := by
  rw [send, h]

/-- In the state its guard requires and at rest, a command's operation sends its request frame and goes in flight. -/
theorem exec_sends {i : Instr} {t : Transaction} {c : CommandId} {s : State} (ht : transactionOf i = some t)
    (hc : cmdOf t = some c) (hreq : requiredState t = some s.session) (hi : s.inflight = none) :
    exec i s = .next { s with inflight := some t, tx := s.tx ++ [encodeFrame c (reqPayload t)] } := by
  have hguard : guardOf Config.stopWhenIdle t s.session = .pass := by
    refine (guardOf_eq_pass_iff _ t s.session).2 fun required h => ?_
    exact Option.some.inj (hreq.symm.trans h)
  rw [exec_of_transactionOf ht hi, issue_of_pass hguard, send_of_cmdOf s hc]
  rfl

/-- Settles O27. -/
theorem startScanCompletes : Obligations.StartScanCompletes := by
  refine fun s hi hs => ⟨exec_sends (i := .startScan) rfl rfl (congrArg some hs.symm) hi, fun payload hp => ?_⟩
  rw [presentRx_encodeFrame_ok (t := .startScan) rfl hp rfl rfl, hi]
  rfl

/-- Settles O28. -/
theorem stopScanCompletes : Obligations.StopScanCompletes := by
  refine fun s hi hs => ⟨exec_sends (i := .stopScan) rfl rfl (congrArg some hs.symm) hi, fun payload hp => ?_⟩
  rw [presentRx_encodeFrame_ok (t := .stopScan) rfl hp rfl rfl, hi]
  rfl

/-- Settles O29: READ_SAMPLE accepts the frame of any command, and only its decoder looks at it. -/
theorem readSampleCompletes : Obligations.ReadSampleCompletes := by
  refine fun s hi => ⟨exec_of_transactionOf (i := .readSample) rfl hi,
    fun c lo hi' intensity disturb more hmore => ⟨_, sample_distance_toNat lo hi', ?_⟩, fun c p hp => ?_⟩
  · exact presentRx_encodeFrame_keeps (t := .readSample) hi (fun _ => rfl) (by simp; omega) rfl
  · rw [presentRx_encodeFrame_keeps (t := .readSample) hi (fun _ => rfl) (by omega) rfl, rspDecode,
      sampleDecode_of_short hp]

/-- Settles O32. -/
theorem getDeviceInfoCompletes : Obligations.GetDeviceInfoCompletes := by
  intro s hi hs
  have hanswer : ∀ p : Bytes, p.length ≤ 255 →
      presentRx (.burst (encodeFrame .getDeviceInfo p)) { s with inflight := some .getDeviceInfo } =
        .next { s with res := s.res ++ [versionDecode p] } :=
    fun p hp => presentRx_encodeFrame_keeps (t := .getDeviceInfo) hi (fun _ => rfl) hp rfl
  refine ⟨exec_sends (i := .getDeviceInfo) rfl rfl (congrArg some hs.symm) hi,
    fun m h a b digits hlen hd => ?_, fun m h a b digits hlen hd => ?_, fun p hp => ?_⟩
  · rw [hanswer _ (by simp; omega), versionDecode_of_digits m h a b hd]
  · rw [hanswer _ (by simp; omega), versionDecode_of_bad_digit m h a b hd]
  · rw [hanswer p (by omega), versionDecode_of_short hp]

/-- Settles O34. -/
theorem selfTestCompletes : Obligations.SelfTestCompletes := by
  intro s hi hs
  have hanswer : ∀ p : Bytes, p.length ≤ 255 →
      presentRx (.burst (encodeFrame .selfTest p)) { s with inflight := some .selfTest } =
        .next { s with res := s.res ++ [selftestDecode p] } :=
    fun p hp => presentRx_encodeFrame_keeps (t := .selfTest) hi (fun _ => rfl) hp rfl
  refine ⟨exec_sends (i := .selfTest) rfl rfl (congrArg some hs.symm) hi, fun flag code rest hlen => ?_,
    fun p hp => ?_⟩
  · rw [hanswer _ (by simp; omega), selftestDecode_cons]
  · rw [hanswer p (by omega), selftestDecode_of_short hp]

/-- The answers of a setter's command: the first byte is compared with the byte sent (rules R93 to R96). -/
theorem presentRx_echo {s : State} {t : Transaction} {c : CommandId} {sent : Byte} (hi : s.inflight = none)
    (hc : cmdOf t = some c) (ht : ∀ st, nextState t st = st) (hr : ∀ p, rspDecode t p = echoDecode sent p) :
    (∀ (echoed : Byte) (more : Bytes), more.length ≤ 254 →
      presentRx (.burst (encodeFrame c (echoed :: more))) { s with inflight := some t } =
        .next { s with
          res := s.res ++ [if echoed = sent then .ok .unit else .fault (.configurationRejected sent echoed)] }) ∧
    presentRx (.burst (encodeFrame c [])) { s with inflight := some t } =
      .next { s with res := s.res ++ [.fault .malformedFrame] } := by
  have ha : answers t c = true := (answers_iff t c).2 (.inr hc)
  refine ⟨fun echoed more hmore => ?_, ?_⟩
  · rw [presentRx_encodeFrame_keeps hi ht (by simp; omega) ha, hr, echoDecode_cons]
  · rw [presentRx_encodeFrame_keeps hi ht (by simp) ha, hr, echoDecode]

/-- In Idle and at rest, an operation whose request carries one operand byte sends it with the sum of opcode and
operand for a checksum. -/
theorem exec_sends_byte {i : Instr} {t : Transaction} {c : CommandId} {s : State} {v : Byte}
    (ht : transactionOf i = some t) (hc : cmdOf t = some c) (hv : reqPayload t = [v])
    (hreq : requiredState t = some .idle) (hi : s.inflight = none) (hs : s.session = .idle) :
    exec i s =
      .next { s with inflight := some t, tx := s.tx ++ [[0xAA, 0x55, opcode c, 0x01, v, opcode c + v]] } := by
  rw [exec_sends ht hc (hs ▸ hreq) hi, hv, encodeFrame_singleton]

/-- Settles O35. -/
theorem setOutputFreqCompletes : Obligations.SetOutputFreqCompletes := fun _ f hi hs =>
  ⟨exec_sends_byte (c := .setOutputFreq) (freqOperand_freqByte f) rfl rfl rfl hi hs,
    presentRx_echo hi rfl (fun _ => rfl) fun _ => rfl⟩

/-- Settles O36. -/
theorem setFilterCompletes : Obligations.SetFilterCompletes := fun _ x hi hs =>
  ⟨exec_sends_byte (c := .setFilter) (filterOperand_filterByte x) rfl rfl rfl hi hs,
    presentRx_echo hi rfl (fun _ => rfl) fun _ => rfl⟩

/-- Settles O37. -/
theorem setSerialBaudCompletes : Obligations.SetSerialBaudCompletes := fun _ b hi hs =>
  ⟨exec_sends_byte (c := .setSerialBaud) (baudOperand_baudByte b) rfl rfl rfl hi hs,
    presentRx_echo hi rfl (fun _ => rfl) fun _ => rfl⟩

/-- Settles O38. -/
theorem formatAndRestoreComplete : Obligations.FormatAndRestoreComplete := fun _ hi hs =>
  ⟨fun v => ⟨exec_sends_byte (i := .setFormatOutputData v) (c := .setFormatOutputData) rfl rfl rfl rfl hi hs,
      fun _ hp => presentRx_encodeFrame_keeps (t := .setFormatOutputData v) hi (fun _ => rfl) hp rfl⟩,
    exec_sends (i := .restoreFactorySettings) rfl rfl (congrArg some hs.symm) hi,
    fun _ hp => presentRx_encodeFrame_keeps (t := .restoreFactorySettings) hi (fun _ => rfl) hp rfl⟩

/-- TEARDOWN as one update of the state. -/
theorem teardown_eq (s : State) :
    teardown s = { s with
      session := .idle
      inflight := none
      tx := if s.session = .scanning then s.tx ++ [encodeFrame .stopScan []] else s.tx
      res := s.res ++ [.ok .unit] } := by
  unfold teardown
  cases s.session <;> rfl

/-- Settles O30. -/
theorem teardownCompletes : Obligations.TeardownCompletes :=
  fun s => congrArg Host.Outcome.next (teardown_eq s)

/-- Settles O31: STATE is still Idle when START_SCAN is in flight. -/
theorem teardownDuringStartScanSendsNothing : Obligations.TeardownDuringStartScanSendsNothing := by
  intro s t hi hs h
  rw [(startScanCompletes s hi hs).1] at h
  cases h
  rw [teardownCompletes]
  simp [hs, hi]

/-- Settles O39: the opcodes are the bytes the reverse lookup finds. -/
theorem encodeCompletes : Obligations.EncodeCompletes := by
  have hexec : ∀ (s : State) (arg : Byte) (p : Bytes), s.inflight = none →
      exec (.encode arg p) s = .next { s with res := s.res ++ [encodeResult arg p] } :=
    fun s arg p hi => accept_taken hi
  refine fun s c p hi => ⟨?_, fun arg harg => ?_⟩
  · rw [hexec s _ p hi, encodeResult, cmdOfOpcode_opcode]
  · have hnone : cmdOfOpcode arg = none :=
      Option.eq_none_iff_forall_ne_some.2 fun d hd => harg d (opcode_of_cmdOfOpcode hd)
    rw [hexec s arg p hi, encodeResult, hnone]

/-- Settles O40. -/
theorem decodeCompletes : Obligations.DecodeCompletes := by
  intro s raw hi
  have hexec : ∀ data, exec (.decode data) s = .next { s with res := s.res ++ [decodeResult data] } :=
    fun data => accept_taken hi
  refine ⟨fun f hf => ?_, fun x hx => ⟨?_, ?_⟩, hexec []⟩
  · rw [hexec, decodeResult, hf]
  · rw [hexec, decodeResult, hx]
  · rintro rfl
    refine decodeResult_ne_noDataReceived raw ?_
    rw [decodeResult, hx]

end Sys2Proof.Machine
end

section
/-! Which transaction can end in which fault (rule R110). -/

namespace Sys2Proof.Machine

/-- A frame without a payload, of any opcode byte, whose checksum should be `e` and is `a`. -/
theorem decodeFrame_of_bad_checksum {e a : Byte} (h : e ≠ a) :
    decodeFrame [0xAA, 0x55, e + 1, 0x00, a] = .error (.checksumMismatch e a) := by
  have hchecksum : checksum [0xAA, 0x55, e + 1, 0x00] = e := by
    simp only [checksum_cons, checksum_nil]
    bv_omega
  have hfields := decodeFrame_fields 0xAA 0x55 (e + 1) 0x00 a []
  rw [if_neg (by decide), if_neg (by decide), List.append_nil, hchecksum, if_pos h.symm] at hfields
  exact hfields

/-- No payload gives `ChecksumMismatch`: where COMPLETE gives it, `decode` found two different bytes. -/
theorem ne_of_completeResult_checksumMismatch {t : Transaction} {ev : RxEvent} {e a : Byte}
    (h : completeResult t ev = .fault (.checksumMismatch e a)) : e ≠ a := by
  have hj := judged t ev
  generalize completeResult t ev = r at h hj
  cases hj with
  | broken raw x _ hd =>
    cases h
    obtain hx | ⟨_, _, hx, hne⟩ := decodeFrame_error hd <;> cases hx
    exact hne
  | decoded raw f _ _ =>
    obtain hx | ⟨_, _, _, _, _, _, hx⟩ | ⟨_, _, _, _, _, _, _, hx⟩ := rspDecode_fault h <;> cases hx
  | _ => cases h

/-- Of the commands whose request carries one byte, all but SET_FORMAT_OUTPUT_DATA check its echo. -/
theorem isEchoSetter_of_reqPayload {t : Transaction} {v : Byte} (h : reqPayload t = [v])
    (hne : ∀ w, t ≠ .setFormatOutputData w) : IsEchoSetter t := by
  cases t with
  | setOutputFreq f => exact .inl ⟨f, rfl⟩
  | setFilter x => exact .inr (.inl ⟨x, rfl⟩)
  | setSerialBaud b => exact .inr (.inr ⟨b, rfl⟩)
  | setFormatOutputData w => exact absurd rfl (hne w)
  | _ => cases h

theorem ne_setFormat_of_isEchoSetter {t : Transaction} (h : IsEchoSetter t) (v : Byte) :
    t ≠ .setFormatOutputData v := by
  rintro rfl
  obtain ⟨_, h⟩ | ⟨_, h⟩ | ⟨_, h⟩ := h <;> cases h

/-- An answer of one byte, other than the byte sent, makes a setter end in `ConfigurationRejected`. -/
theorem exists_burst_configurationRejected {t : Transaction} {requested echoed : Byte} (ht : IsEchoSetter t)
    (hreq : reqPayload t = [requested]) (hne : requested ≠ echoed) :
    ∃ raw, completeResult t (.burst raw) = .fault (.configurationRejected requested echoed) := by
  obtain ⟨c, hc⟩ := Option.ne_none_iff_exists'.1 (cmdOf_ne_none_of_isEchoSetter ht)
  refine ⟨encodeFrame c [echoed], ?_⟩
  rw [completeResult_encodeFrame (by simp) ((answers_iff t c).2 (.inr hc)),
    rspDecode_eq_configurationRejected_iff]
  exact ⟨ht, hreq, [], rfl, hne.symm⟩

/-- Settles O45: the faults of COMPLETE one by one, then an RX event for each that can occur. -/
theorem failuresAtCompleteOfEachOperation : Obligations.FailuresAtCompleteOfEachOperation := by
  refine fun t f => ⟨?_, fun h => ?_⟩
  · rintro ⟨ev, hev, h⟩
    obtain ⟨htimeout, rfl⟩ | ⟨_, rfl⟩ | rfl | ⟨e, a, rfl⟩ | ⟨_, _, _, _, _, hr⟩ := completeResult_fault h
    · exact hev htimeout
    · trivial
    · trivial
    · exact ne_of_completeResult_checksumMismatch h
    · obtain rfl | ⟨ht, _, _, _, _, _, rfl⟩ | ⟨ht, sent, echoed, _, hreq, _, hne, rfl⟩ := rspDecode_fault hr
      · trivial
      · exact ht
      · exact ⟨hne.symm, hreq, ne_setFormat_of_isEchoSetter ht⟩
  · cases f with
    | malformedFrame => exact ⟨.burst [0x00], by simp, completeResult_of_error (by simp) rfl⟩
    | checksumMismatch e a =>
      exact ⟨.burst _, by simp, completeResult_of_error (by simp) (decodeFrame_of_bad_checksum h)⟩
    | noDataReceived => exact ⟨.burst [], by simp, rfl⟩
    | selfTestFailed code =>
      subst h
      refine ⟨.burst (encodeFrame .selfTest [0x00, code]), by simp, ?_⟩
      exact completeResult_encodeFrame (by simp) rfl
    | configurationRejected requested echoed =>
      obtain ⟨hne, hreq, hformat⟩ := h
      obtain ⟨raw, hraw⟩ :=
        exists_burst_configurationRejected (isEchoSetter_of_reqPayload hreq hformat) hreq hne
      exact ⟨.burst raw, by simp, hraw⟩
    | deviceUnresponsive => exact ⟨.timeout, fun _ => h, rfl⟩
    | operationNotAllowedWhileScanning => exact h.elim
    | operationRequiresScanning => exact h.elim
    | illegalRequest => exact h.elim

end Sys2Proof.Machine
end

section
/-! What operations and steps leave unchanged, and what they write (rules R17, R19, R29, R74, R77, R78, R114). -/

namespace Sys2Proof.Machine

/-- An ISSUE adds at most one burst to TX and one result to RES. -/
theorem issue_grows (t : Transaction) (s : State) : s.tx <+: (issue t s).tx ∧ s.res <+: (issue t s).res := by
  obtain ⟨f, _, h⟩ | ⟨_, h⟩ | ⟨_, h⟩ := issue_cases t s
  · rw [h]
    exact ⟨⟨[], by simp⟩, ⟨_, rfl⟩⟩
  · rw [h]
    exact ⟨⟨[], by simp⟩, ⟨_, rfl⟩⟩
  · rw [h]
    refine ⟨?_, ⟨[], by simp⟩⟩
    obtain ⟨_, hs⟩ | ⟨c, _, hs⟩ := send_eq t s
    · exact ⟨[], by simp [hs]⟩
    · exact ⟨[encodeFrame c (reqPayload t)], by simp [hs]⟩

theorem teardown_grows (s : State) : s.tx <+: (teardown s).tx ∧ s.res <+: (teardown s).res := by
  rw [teardown_tx, teardown_res]
  refine ⟨?_, ⟨_, rfl⟩⟩
  split
  · exact ⟨_, rfl⟩
  · exact ⟨[], by simp⟩

/-- The function `exec` of rule R75 refuses what the two-event machine refuses (rule R55). -/
theorem atomicExec_of_refusal {i : Instr} (h : operationEvent i = .refusal) (p : StopWhenIdle) (st : SessionState)
    (ev : RxEvent) : atomicExec p st i ev = ⟨st, [], .fault .illegalRequest⟩ := by
  cases i with
  | setOutputFreq arg => rw [atomicExec, (issueEvent_eq_refusal_iff (freqOperand arg)).1 h, atomicOperand]
  | setFilter arg => rw [atomicExec, (issueEvent_eq_refusal_iff (filterOperand arg)).1 h, atomicOperand]
  | setSerialBaud arg => rw [atomicExec, (issueEvent_eq_refusal_iff (baudOperand arg)).1 h, atomicOperand]
  | encode arg data => rw [atomicExec, encodeResult_illFormed ((operationEvent_eq_refusal_iff _).1 h)]
  | _ => cases h

/-- At rest, an operation that is no transaction and no TEARDOWN delivers one result, the one rule R75 gives it, and
changes nothing else. -/
theorem exec_pure {i : Instr} {s : State} (ht : transactionOf i = none) (hne : i ≠ .teardown)
    (hi : s.inflight = none) :
    ∃ r, exec i s = .next (deliver r s) ∧ ∀ p st ev, atomicExec p st i ev = ⟨st, [], r⟩ := by
  obtain ⟨rfl, _⟩ | ⟨_, e, he, hk⟩ := exec_cases i s
  · exact absurd rfl hne
  rw [accept_taken hi] at he
  obtain ⟨t, hsome, _⟩ | ⟨arg, data, rfl, rfl⟩ | ⟨data, rfl, rfl⟩ | ⟨_, hev, rfl⟩ := hk
  · cases ht.symm.trans hsome
  · exact ⟨_, he, fun _ _ _ => rfl⟩
  · exact ⟨_, he, fun _ _ _ => rfl⟩
  · exact ⟨_, he.trans (congrArg _ (refuse_eq hi)), atomicExec_of_refusal hev⟩

/-- While a transaction is in flight, an operation other than TEARDOWN that goes on only comes to wait. -/
theorem held_of_exec {i : Instr} {s t : State} (hne : i ≠ .teardown) (hi : s.inflight.isSome)
    (h : exec i s = .next t) : t = { s with opPort := some (encodeRequest i) } := by
  obtain ⟨rfl, _⟩ | ⟨_, e, he, _⟩ := exec_cases i s
  · exact absurd rfl hne
  rw [he] at h
  obtain ⟨hn, _⟩ | ⟨_, _, ha⟩ | ⟨_, _, ha⟩ := accept_cases (encodeRequest i) e s
  · simp [hn] at hi
  · cases ha.symm.trans h
    rfl
  · cases ha.symm.trans h

/-- Settles O54: TEARDOWN, an operation that waits, and with nothing in flight an ISSUE or the delivery of a result. -/
theorem operationFrame : Obligations.OperationFrame := by
  intro i s t h
  by_cases hne : i = .teardown
  · subst hne
    cases h
    exact ⟨teardown_inputs s, fun hne => absurd rfl hne, fun hne => absurd rfl hne, fun _ => teardown_opPort s,
      fun _ hne => absurd rfl hne, teardown_grows s⟩
  cases hi : s.inflight with
  | some u =>
    obtain rfl := held_of_exec hne (by simp [hi]) h
    refine ⟨rfl, fun _ => rfl, fun _ _ => ⟨hi, rfl, rfl⟩, ?_, fun _ _ => ⟨hi, rfl⟩, ⟨[], by simp⟩, ⟨[], by simp⟩⟩
    rintro (hnone | ht)
    · cases hnone
    · exact absurd ht hne
  | none =>
    cases ht : transactionOf i with
    | some u =>
      cases (exec_of_transactionOf ht hi).symm.trans h
      obtain ⟨hsession, hopPort, hinputs⟩ := issue_frame u s
      exact ⟨hinputs, fun _ => hsession, fun _ hsome => by simp at hsome, fun _ => hopPort,
        fun hnone => by simp at hnone, issue_grows u s⟩
    | none =>
      obtain ⟨r, he, _⟩ := exec_pure ht hne hi
      cases he.symm.trans h
      exact ⟨rfl, fun _ => rfl, fun _ hsome => by simp at hsome, fun _ => rfl, fun _ _ => ⟨hi, rfl⟩,
        ⟨[], by simp⟩, ⟨[r], rfl⟩⟩

/-- An ISSUE that puts something in flight puts its own transaction there and delivers nothing. -/
theorem issue_of_inflight_isSome {t : Transaction} {s : State} (hi : s.inflight = none)
    (h : (issue t s).inflight.isSome) : (issue t s).inflight = some t ∧ (issue t s).res = s.res := by
  obtain ⟨f, _, hs⟩ | ⟨_, hs⟩ | ⟨_, hs⟩ := issue_cases t s
  · simp [hs] at h
  · simp [hs, hi] at h
  · simp [hs]

/-- An RX event that goes on completes the transaction in flight. -/
theorem complete_of_presentRx {ev : RxEvent} {s u : State} {t : Transaction} (hi : s.inflight = some t)
    (h : presentRx ev s = .next u) : u = complete t ev s := by
  cases ev with
  | burst raw =>
    rw [presentRx_burst hi] at h
    cases h
    rfl
  | timeout =>
    rw [presentRx_timeout hi] at h
    split at h <;> cases h
    rfl

/-- Settles O49: neither the ISSUE nor a COMPLETE that faults writes STATE, the OP port or the coming events, and
COMPLETE clears the latch. -/
theorem faultsArePrecise : Obligations.FaultsArePrecise := by
  intro i s t u ev f hi hne h hsome hrx hres
  cases ht : transactionOf i with
  | none =>
    obtain ⟨r, he, _⟩ := exec_pure ht hne hi
    cases he.symm.trans h
    simp [hi] at hsome
  | some tr =>
    cases (exec_of_transactionOf ht hi).symm.trans h
    obtain ⟨hinflight, hissued⟩ := issue_of_inflight_isSome hi hsome
    obtain rfl := complete_of_presentRx hinflight hrx
    obtain ⟨hcleared, _, hopPort, hinputs, hcompleted⟩ := complete_frame tr ev (issue tr s)
    obtain ⟨hsession₀, hopPort₀, hinputs₀⟩ := issue_frame tr s
    have hfault : completeResult tr ev = .fault f := by simpa [hcompleted, hissued] using hres
    exact ⟨(complete_session_of_fault _ hfault).trans hsession₀, hcleared.trans hi.symm, hopPort.trans hopPort₀,
      hinputs.trans hinputs₀⟩

/-- A result of COMPLETE that is no fault is the payload's own, in an answer to the transaction. -/
theorem completeResult_ok {t : Transaction} {ev : RxEvent} {v : Value} (h : completeResult t ev = .ok v) :
    ∃ raw p, ev = .burst raw ∧ rspDecode t p = .ok v := by
  have hj := judged t ev
  generalize completeResult t ev = r at h hj
  cases hj with
  | decoded raw f => exact ⟨raw, f.payload, rfl, h⟩
  | _ => cases h

/-- A COMPLETE that moves STATE is the success of one of the two transitions (rule R69). -/
theorem complete_session_cases (t : Transaction) (ev : RxEvent) (s : State) :
    (complete t ev s).session = s.session ∨
      ∃ raw, ev = .burst raw ∧ completeResult t (.burst raw) = .ok .unit ∧
        ((t = .startScan ∧ (complete t ev s).session = .scanning) ∨
          (t = .stopScan ∧ (complete t ev s).session = .idle)) := by
  cases hr : completeResult t ev with
  | fault f => exact .inl (complete_session_of_fault s hr)
  | ok v =>
    have hsession := complete_session_of_ok s hr
    obtain ⟨raw, p, rfl, hv⟩ := completeResult_ok hr
    by_cases hstart : t = .startScan
    · subst hstart
      cases hv
      exact .inr ⟨raw, rfl, hr, .inl ⟨rfl, hsession⟩⟩
    by_cases hstop : t = .stopScan
    · subst hstop
      cases hv
      exact .inr ⟨raw, rfl, hr, .inr ⟨rfl, hsession⟩⟩
    exact .inl (hsession.trans (nextState_of_ne hstart hstop s.session))

/-- A request that is no TEARDOWN leaves STATE. -/
theorem Ran.session_of_not_teardown {s s' : State} {r : Request} {e : Option Event} (h : Ran s r e (.next s'))
    (hr : r.opsel ≠ opselTeardown) : s'.session = s.session := by
  cases h with
  | tornDown _ ho => exact absurd ho hr
  | issued _ t => exact (issue_frame t s).1
  | _ => rfl

/-- Settles O50, by what a step has done. -/
theorem onlyFourEventsWriteState : Obligations.OnlyFourEventsWriteState := by
  refine ⟨fun s s' h => ?_, fun s _ _ hr => complete_session_of_ok s hr, fun s _ _ hr => complete_session_of_ok s hr,
    teardown_session, resetEvent_session⟩
  cases advanced h with
  | request r s₀ _ htakes hsame hrun =>
    by_cases hr : r.opsel = opselTeardown
    · rw [runRequest_teardown s₀ hr] at hrun
      cases hrun
      exact .inr (.inr (.inr (.inl ⟨rfl, r, hr, htakes.imp And.left And.right⟩)))
    · obtain ⟨_, hran⟩ := ran_of_runRequest hrun
      exact .inl ((hran.session_of_not_teardown hr).trans hsame.1)
  | nothing => exact .inl rfl
  | reset rest _ hin => exact .inr (.inr (.inr (.inr ⟨rfl, rest, hin⟩)))
  | completed t ev rest _ hin hi =>
    obtain h | ⟨raw, rfl, hr, ⟨rfl, h⟩ | ⟨rfl, h⟩⟩ := complete_session_cases t ev { s with inputs := rest }
    · exact .inl h
    · exact .inr (.inl ⟨h, hi, raw, rest, hin, hr⟩)
    · exact .inr (.inr (.inl ⟨h, hi, raw, rest, hin, hr⟩))

/-- What a request does to the latch: a TEARDOWN clears it, the ISSUE of a transaction whose guard passes sets it. -/
theorem Ran.inflight_cases {s s' : State} {r : Request} {e : Option Event} (h : Ran s r e (.next s')) :
    s'.inflight = s.inflight ∨
      (s.inflight = none ∧ ∃ i t, decodeRequest r = .ok i ∧ transactionOf i = some t ∧
        guardOf Config.stopWhenIdle t s.session = .pass ∧ s'.inflight = some t) ∨
      (s'.inflight = none ∧ decodeRequest r = .ok .teardown) := by
  cases h with
  | tornDown hd => exact .inr (.inr ⟨rfl, hd⟩)
  | issued i t hd ht hi =>
    obtain ⟨f, _, hs⟩ | ⟨_, hs⟩ | ⟨hg, hs⟩ := issue_cases t s
    · rw [hs]
      exact .inl hi.symm
    · rw [hs]
      exact .inl rfl
    · rw [hs]
      exact .inr (.inl ⟨hi, i, t, hd, ht, hg, rfl⟩)
  | _ => exact .inl rfl

/-- A latch that is clear afterwards was clear before, or was set and has been cleared. -/
theorem same_or_cleared {α : Type} {x y : Option α} (h : y = none) : y = x ∨ (x.isSome ∧ y = none) := by
  subst h
  cases x with
  | none => exact .inl rfl
  | some a => exact .inr ⟨rfl, rfl⟩

/-- Settles O51, by what a step has done. -/
theorem onlyIssueSetsInflight : Obligations.OnlyIssueSetsInflight := by
  intro s s' h
  cases advanced h with
  | request r s₀ _ htakes hsame hrun =>
    obtain ⟨hsession, hinflight, _, _⟩ := hsame
    obtain ⟨_, hran⟩ := ran_of_runRequest hrun
    obtain hkept | ⟨hnone, i, t, hd, ht, hg, hset⟩ | ⟨hnone, hd⟩ := hran.inflight_cases
    · exact .inl (hkept.trans hinflight)
    · exact .inr (.inl ⟨hinflight ▸ hnone, r, i, t, htakes, hd, ht, hsession ▸ hg, hset⟩)
    · exact (same_or_cleared hnone).imp_right fun ⟨hsome, _⟩ =>
        .inr ⟨hsome, hnone, .inr (.inr ⟨r, htakes, hd⟩)⟩
  | nothing => exact .inl rfl
  | reset rest hn hin =>
    exact (same_or_cleared rfl).imp_right fun ⟨hsome, hnone⟩ => .inr ⟨hsome, hnone, .inr (.inl ⟨hn, rest, hin⟩)⟩
  | completed t ev rest hn hin hi =>
    have hnone := (complete_frame t ev { s with inputs := rest }).1
    exact .inr (.inr ⟨by simp [hi], hnone, .inl ⟨hn, ev, rest, hin⟩⟩)

/-- An event delivers one result at most. -/
theorem Ran.res_cases {s s' : State} {r : Request} {e : Option Event} (h : Ran s r e (.next s')) :
    s'.res = s.res ∨ ∃ x, s'.res = s.res ++ [x] := by
  cases h with
  | tornDown => exact .inr ⟨_, teardown_res s⟩
  | issued i t =>
    obtain ⟨f, _, hs⟩ | ⟨_, hs⟩ | ⟨_, hs⟩ := issue_cases t s
    · exact .inr ⟨.fault f, by rw [hs, raise_res]⟩
    · exact .inr ⟨.ok .unit, by rw [hs, deliver_res]⟩
    · exact .inl (by rw [hs, setInflight_res, send_res])
  | held => exact .inl rfl
  | _ => exact .inr ⟨_, rfl⟩

/-- What a request puts on TX: the frame of the transaction it puts in flight, or a TEARDOWN's stop frame. -/
theorem Ran.tx_cases {s s' : State} {r : Request} {e : Option Event} (h : Ran s r e (.next s')) :
    s'.tx = s.tx ∨
      (s.inflight = none ∧ ∃ i t c, decodeRequest r = .ok i ∧ transactionOf i = some t ∧ cmdOf t = some c ∧
        s'.inflight = some t ∧ s'.res = s.res ∧ s'.tx = s.tx ++ [encodeFrame c (reqPayload t)]) ∨
      (s.session = .scanning ∧ decodeRequest r = .ok .teardown ∧ s'.session = .idle ∧ s'.inflight = none ∧
        s'.res = s.res ++ [.ok .unit] ∧ s'.tx = s.tx ++ [encodeFrame .stopScan []]) := by
  cases h with
  | tornDown hd =>
    by_cases hs : s.session = .scanning
    · exact .inr (.inr ⟨hs, hd, rfl, rfl, teardown_res s, (teardown_tx s).trans (if_pos hs)⟩)
    · exact .inl ((teardown_tx s).trans (if_neg hs))
  | issued i t hd ht hi =>
    obtain ⟨f, _, hs⟩ | ⟨_, hs⟩ | ⟨_, hs⟩ := issue_cases t s
    · exact .inl (by rw [hs, raise_tx])
    · exact .inl (by rw [hs, deliver_tx])
    · obtain ⟨_, hsend⟩ | ⟨c, hc, hsend⟩ := send_eq t s
      · exact .inl (by rw [hs, setInflight_tx, hsend])
      · rw [hs, hsend]
        exact .inr (.inl ⟨hi, i, t, c, hd, ht, hc, rfl, rfl, rfl⟩)
  | _ => exact .inl rfl

/-- Settles O52, by what a step has done: only a request sends anything. -/
theorem oneBurstAndOneResultAtMost : Obligations.OneBurstAndOneResultAtMost := by
  intro s s' h
  cases advanced h with
  | request r s₀ _ htakes hsame hrun =>
    obtain ⟨hsession, hinflight, htx, hres⟩ := hsame
    obtain ⟨_, hran⟩ := ran_of_runRequest hrun
    rw [← hsession, ← hinflight, ← htx, ← hres]
    refine ⟨hran.res_cases, hran.tx_cases.imp_right (Or.imp ?_ ?_)⟩
    · rintro ⟨hi, i, t, c, hd, hrest⟩
      exact ⟨hi, r, i, t, c, htakes, hd, hrest⟩
    · rintro ⟨hs, hd, hrest⟩
      exact ⟨hs, r, htakes, hd, hrest⟩
  | nothing => exact ⟨.inl rfl, .inl rfl⟩
  | reset => exact ⟨.inl rfl, .inl rfl⟩
  | completed t ev rest =>
    obtain ⟨_, htx, _, _, hres⟩ := complete_frame t ev { s with inputs := rest }
    exact ⟨.inr ⟨_, hres⟩, .inl htx⟩

end Sys2Proof.Machine
end

section
/-! The invariant of the machine (rules R19, R29, R92), and RESET (rules R123 to R125). -/

namespace Sys2Proof.Machine

/-- Settles O58: nothing is in flight, sent or delivered at reset. -/
theorem invariantHoldsAtReset : Obligations.InvariantHoldsAtReset where
  inflightAgrees _ _ h := by cases h
  txIsCatalog _ h := by cases h
  outcomesPassed _ h := by cases h

theorem inflightAgrees_of_none {s : State} (h : s.inflight = none) : InflightAgrees s := by
  intro t st ht
  cases h.symm.trans ht

/-- A guard that passes puts in flight what STATE allows. -/
theorem issue_inflightAgrees {t : Transaction} {s : State} (hi : s.inflight = none) :
    InflightAgrees (issue t s) := by
  obtain ⟨f, _, hs⟩ | ⟨_, hs⟩ | ⟨hg, hs⟩ := issue_cases t s
  · rw [hs]
    exact inflightAgrees_of_none rfl
  · rw [hs]
    exact inflightAgrees_of_none hi
  · intro u st hu hreq
    have htu : u = t := by simpa [hs, eq_comm] using hu
    subst htu
    rw [(issue_frame u s).1]
    exact (guardOf_eq_pass_iff _ u s.session).1 hg st hreq

theorem Ran.inflightAgrees {s s' : State} {r : Request} {e : Option Event} (h : Ran s r e (.next s'))
    (hs : InflightAgrees s) : InflightAgrees s' := by
  cases h with
  | tornDown => exact inflightAgrees_of_none rfl
  | issued i t _ _ hi => exact issue_inflightAgrees hi
  | encoded _ _ _ hi => exact inflightAgrees_of_none hi
  | decoded _ _ hi => exact inflightAgrees_of_none hi
  | refused _ hi => exact inflightAgrees_of_none hi
  | held => exact hs

theorem step_inflightAgrees {s s' : State} (h : step s = .next s') (hs : InflightAgrees s) : InflightAgrees s' := by
  cases advanced h with
  | request r s₀ _ _ hsame hrun =>
    obtain ⟨hsession, hinflight, _, _⟩ := hsame
    obtain ⟨_, hran⟩ := ran_of_runRequest hrun
    refine hran.inflightAgrees fun t st ht hreq => hsession.trans (hs t st (hinflight.symm.trans ht) hreq)
  | nothing => exact hs
  | reset => exact inflightAgrees_of_none rfl
  | completed t ev rest => exact inflightAgrees_of_none (complete_frame t ev _).1

/-- Whatever a step sends is a catalog frame. -/
theorem step_txIsCatalog {s s' : State} (h : step s = .next s') (hs : TxIsCatalog s) : TxIsCatalog s' := by
  have happend : ∀ b, IsRequestFrame b → s'.tx = s.tx ++ [b] → TxIsCatalog s' := by
    intro b hb htx b' hmem
    rw [htx, List.mem_append, List.mem_singleton] at hmem
    obtain hold | rfl := hmem
    · exact hs b' hold
    · exact hb
  obtain htx | ⟨_, _, _, t, c, _, _, _, hc, _, _, htx⟩ | ⟨_, _, _, _, _, _, _, htx⟩ :=
    (oneBurstAndOneResultAtMost s s' h).2
  · rw [TxIsCatalog, htx]
    exact hs
  · exact happend _ ⟨t, c, hc, rfl⟩ htx
  · exact happend _ ⟨.stopScan, .stopScan, rfl, rfl⟩ htx

/-- SELF_TEST's decoder gives an outcome only where the test has passed (rule R92). -/
theorem selftestDecode_passed {p : Bytes} {o : SelfTestOutcome} (h : selftestDecode p = .ok (.selfTest o)) :
    o.passed = true := by
  unfold selftestDecode at h
  split at h
  · split at h <;> cases h
    rfl
  · cases h

/-- No decoder but SELF_TEST's gives an outcome. -/
theorem rspDecode_passed {t : Transaction} {p : Bytes} {o : SelfTestOutcome}
    (h : rspDecode t p = .ok (.selfTest o)) : o.passed = true := by
  have hecho : ∀ sent, echoDecode sent p ≠ .ok (.selfTest o) := by
    intro sent he
    unfold echoDecode at he
    split at he
    · split at he <;> cases he
    · cases he
  cases t with
  | selfTest => exact selftestDecode_passed h
  | getDeviceInfo =>
    change versionDecode p = _ at h
    unfold versionDecode at h
    split at h
    · split at h <;> cases h
    · cases h
  | readSample =>
    change sampleDecode p = _ at h
    unfold sampleDecode at h
    split at h <;> cases h
  | setOutputFreq f => exact absurd h (hecho _)
  | setFilter x => exact absurd h (hecho _)
  | setSerialBaud b => exact absurd h (hecho _)
  | startScan => cases h
  | stopScan => cases h
  | setFormatOutputData v => cases h
  | restoreFactorySettings => cases h

theorem Ran.res_ne_selfTest {s s' : State} {r : Request} {e : Option Event} (h : Ran s r e (.next s'))
    (o : SelfTestOutcome) : s'.res ≠ s.res ++ [.ok (.selfTest o)] := by
  intro hres
  cases h with
  | tornDown => simp at hres
  | issued i t =>
    obtain ⟨f, _, hs⟩ | ⟨_, hs⟩ | ⟨_, hs⟩ := issue_cases t s <;> simp [hs] at hres
  | encoded arg data =>
    obtain ⟨bs, hr⟩ | hr := encodeResult_cases arg data <;> simp [hr] at hres
  | decoded data =>
    obtain ⟨f, hr⟩ | hr | ⟨x, a, hr⟩ := decodeResult_cases data <;> simp [hr] at hres
  | refused => simp at hres
  | held => simp at hres

/-- A step that delivers an outcome is a COMPLETE, and the test has passed. -/
theorem passed_of_step {s s' : State} {o : SelfTestOutcome} (h : step s = .next s')
    (hres : s'.res = s.res ++ [.ok (.selfTest o)]) : o.passed = true := by
  cases advanced h with
  | request r s₀ _ _ hsame hrun =>
    obtain ⟨_, _, _, hsame⟩ := hsame
    obtain ⟨_, hran⟩ := ran_of_runRequest hrun
    rw [← hsame] at hres
    exact absurd hres (hran.res_ne_selfTest o)
  | nothing => simp at hres
  | reset => simp at hres
  | completed t ev rest =>
    obtain ⟨_, _, _, _, hdelivered⟩ := complete_frame t ev { s with inputs := rest }
    have hr : completeResult t ev = .ok (.selfTest o) := by simpa [hdelivered] using hres
    obtain ⟨_, _, _, hv⟩ := completeResult_ok hr
    exact rspDecode_passed hv

theorem step_outcomesPassed {s s' : State} (h : step s = .next s') (hs : OutcomesPassed s) : OutcomesPassed s' := by
  intro o hmem
  obtain hres | ⟨r, hres⟩ := (oneBurstAndOneResultAtMost s s' h).1
  · exact hs o (hres ▸ hmem)
  · rw [hres, List.mem_append, List.mem_singleton] at hmem
    obtain hold | rfl := hmem
    · exact hs o hold
    · exact passed_of_step h hres

/-- Settles O59, part by part. -/
theorem everyStepKeepsTheInvariant : Obligations.EveryStepKeepsTheInvariant := fun _ _ hs h =>
  ⟨step_inflightAgrees h hs.inflightAgrees, step_txIsCatalog h hs.txIsCatalog,
    step_outcomesPassed h hs.outcomesPassed⟩

/-- Settles O55: RESET leaves Idle, where a TEARDOWN sends nothing. -/
theorem resetEventClears : Obligations.ResetEventClears :=
  fun _ _ hn hin => ⟨step_of_reset hn hin, rfl⟩

/-- Settles O56, by the definitions. -/
theorem resetState : Obligations.ResetState :=
  ⟨rfl, rfl, rfl, rfl, rfl, rfl, rfl, stateOut_eq, rfl, rfl⟩

/-- Settles O57, by the table of codes. -/
theorem resRecordOfEachResult : Obligations.ResRecordOfEachResult :=
  ⟨fun _ => rfl, rfl, fun _ _ => rfl, rfl, rfl, rfl, fun _ => rfl, fun _ _ => rfl, rfl, rfl⟩

end Sys2Proof.Machine
end

section
/-! No event reads an earlier output (rule R15): each event commutes with putting other outputs into the past. -/

namespace Sys2Proof.Machine

/-- The state with other bursts and results in its past. -/
def withPast (a : List Bytes) (b : List Result) (s : State) : State :=
  { s with tx := a ++ s.tx, res := b ++ s.res }

/-- The same, of the outcome of a step. -/
def outcomeWithPast (a : List Bytes) (b : List Result) :
    Host.Outcome State Fault Refusal → Host.Outcome State Fault Refusal
  | .next s => .next (withPast a b s)
  | .fault f => .fault f
  | .refused r => .refused r

section
variable (a : List Bytes) (b : List Result) (s : State)

@[simp] theorem withPast_session : (withPast a b s).session = s.session := rfl
@[simp] theorem withPast_inflight : (withPast a b s).inflight = s.inflight := rfl
@[simp] theorem withPast_opPort : (withPast a b s).opPort = s.opPort := rfl
@[simp] theorem withPast_inputs : (withPast a b s).inputs = s.inputs := rfl

@[simp] theorem setSession_withPast (st : SessionState) :
    setSession st (withPast a b s) = withPast a b (setSession st s) := rfl

@[simp] theorem setInflight_withPast (x : Option Transaction) :
    setInflight x (withPast a b s) = withPast a b (setInflight x s) := rfl

@[simp] theorem emit_withPast (bs : Bytes) : emit bs (withPast a b s) = withPast a b (emit bs s) := by
  simp [emit, withPast]

@[simp] theorem deliver_withPast (r : Result) : deliver r (withPast a b s) = withPast a b (deliver r s) := by
  simp [deliver, withPast]

@[simp] theorem raise_withPast (f : Failure) : raise f (withPast a b s) = withPast a b (raise f s) := by
  simp [raise]

@[simp] theorem refuse_withPast : refuse (withPast a b s) = withPast a b (refuse s) :=
  raise_withPast a b s .illegalRequest

@[simp] theorem send_withPast (t : Transaction) : send t (withPast a b s) = withPast a b (send t s) := by
  unfold send
  cases cmdOf t with
  | none => rfl
  | some c => exact emit_withPast a b s _

@[simp] theorem issue_withPast (t : Transaction) : issue t (withPast a b s) = withPast a b (issue t s) := by
  unfold issue
  rw [withPast_session]
  cases guardOf Config.stopWhenIdle t s.session <;> simp [issueWith]

@[simp] theorem complete_withPast (t : Transaction) (ev : RxEvent) :
    complete t ev (withPast a b s) = withPast a b (complete t ev s) := by
  unfold complete
  cases completeResult t ev <;> simp [finish]

@[simp] theorem teardown_withPast : teardown (withPast a b s) = withPast a b (teardown s) := by
  unfold teardown
  rw [withPast_session]
  cases s.session <;> simp

theorem accept_withPast (r : Request) {e : State → State} (he : e (withPast a b s) = withPast a b (e s)) :
    accept r e (withPast a b s) = outcomeWithPast a b (accept r e s) := by
  unfold accept hold
  rw [withPast_inflight, withPast_opPort]
  cases s.inflight with
  | none => exact congrArg Host.Outcome.next he
  | some t => cases s.opPort <;> rfl

theorem exec_withPast (i : Instr) : exec i (withPast a b s) = outcomeWithPast a b (exec i s) := by
  have hoperand : ∀ o, issueOperand o (withPast a b s) = withPast a b (issueOperand o s) := by
    rintro (_ | t)
    · exact refuse_withPast a b s
    · exact issue_withPast a b s t
  cases i with
  | teardown => exact congrArg Host.Outcome.next (teardown_withPast a b s)
  | encode => exact accept_withPast a b s _ (deliver_withPast a b s _)
  | decode => exact accept_withPast a b s _ (deliver_withPast a b s _)
  | setOutputFreq => exact accept_withPast a b s _ (hoperand _)
  | setFilter => exact accept_withPast a b s _ (hoperand _)
  | setSerialBaud => exact accept_withPast a b s _ (hoperand _)
  | _ => exact accept_withPast a b s _ (issue_withPast a b s _)

theorem runRequest_withPast (r : Request) :
    runRequest r (withPast a b s) = outcomeWithPast a b (runRequest r s) := by
  unfold runRequest
  cases decodeRequest r with
  | ok i => exact exec_withPast a b s i
  | error x => exact accept_withPast a b s r (refuse_withPast a b s)

theorem presentRx_withPast (ev : RxEvent) :
    presentRx ev (withPast a b s) = outcomeWithPast a b (presentRx ev s) := by
  unfold presentRx
  rw [withPast_inflight]
  cases s.inflight with
  | none => rfl
  | some t =>
    cases ev with
    | burst raw => exact congrArg Host.Outcome.next (complete_withPast a b s t _)
    | timeout =>
      simp only [complete_withPast]
      split <;> rfl

theorem presentNext_withPast : presentNext (withPast a b s) = outcomeWithPast a b (presentNext s) := by
  unfold presentNext
  rw [withPast_inputs]
  cases s.inputs with
  | nil => rfl
  | cons e rest =>
    cases e with
    | request r => exact runRequest_withPast a b { s with inputs := rest } r
    | rx ev => exact presentRx_withPast a b { s with inputs := rest } ev
    | reset => rfl

/-- A step of the state with another past is the step of the state, with that past. -/
theorem step_withPast : step (withPast a b s) = outcomeWithPast a b (step s) := by
  unfold step advance
  rw [withPast_opPort]
  cases s.opPort with
  | none => exact presentNext_withPast a b s
  | some r =>
    have hcan : canTake r (withPast a b s) = canTake r s := rfl
    simp only [hcan]
    split
    · exact runRequest_withPast a b { s with opPort := none } r
    · exact presentNext_withPast a b s

end

/-- Settles O53. -/
theorem stepsReadNoEarlierOutput : Obligations.StepsReadNoEarlierOutput := by
  intro s a b
  have hstep := step_withPast a b s
  cases h : step s with
  | next t => rwa [h] at hstep
  | fault f => rwa [h] at hstep
  | refused r => rwa [h] at hstep

end Sys2Proof.Machine
end

section
/-! The two-event machine computes the function `exec` of rule R75. -/

namespace Sys2Proof.Machine

/-- The state that `exec` of rule R75 describes: from `s` at rest, with `rest` still to come. -/
def afterAtomic (s : State) (rest : List HostEvent) (whole : Atomic) : State :=
  { s with
    session := whole.session
    inputs := rest
    tx := if whole.tx = [] then s.tx else s.tx ++ [whole.tx]
    res := s.res ++ [whole.result] }

theorem atomicExec_of_transactionOf {i : Instr} {t : Transaction} (h : transactionOf i = some t) (p : StopWhenIdle)
    (st : SessionState) (ev : RxEvent) : atomicExec p st i ev = atomicTransaction p t st ev := by
  obtain rfl := eq_instrOf_of_transactionOf h
  cases t with
  | setOutputFreq f => rw [instrOf, atomicExec, freqOperand_freqByte, atomicOperand]
  | setFilter x => rw [instrOf, atomicExec, filterOperand_filterByte, atomicOperand]
  | setSerialBaud b => rw [instrOf, atomicExec, baudOperand_baudByte, atomicOperand]
  | _ => rfl

/-- Where no waiting request can be taken, the host's request of an operation is run. -/
theorem step_of_encodeRequest {s : State} {i : Instr} {rest : List HostEvent} (hn : NothingToTake s)
    (h : s.inputs = .request (encodeRequest i) :: rest) : step s = exec i { s with inputs := rest } := by
  rw [step_of_request hn h, runRequest_of_ok _ (decodeRequest_encodeRequest i)]

/-- An operation that consumes no RX event is whole in its request's step. -/
theorem exec_eq_afterAtomic {s : State} {i : Instr} (ev : RxEvent) (rest : List HostEvent) (hi : s.inflight = none)
    (h : consumesRx Config.stopWhenIdle s.session i = false) :
    exec i { s with inputs := rest } =
      .next (afterAtomic s rest (atomicExec Config.stopWhenIdle s.session i ev)) := by
  by_cases hne : i = .teardown
  · subst hne
    rw [teardownCompletes]
    cases s.session <;> simp [atomicExec, afterAtomic, hi, encodeFrame_nil, opcode]
  cases ht : transactionOf i with
  | none =>
    obtain ⟨r, he, hwhole⟩ := exec_pure (s := { s with inputs := rest }) ht hne hi
    rw [he, hwhole]
    rfl
  | some t =>
    rw [exec_of_transactionOf ht (s := { s with inputs := rest }) hi, atomicExec_of_transactionOf ht]
    cases hg : guardOf Config.stopWhenIdle t s.session with
    | reject f =>
      rw [issue_of_reject (s := { s with inputs := rest }) hi hg, atomicTransaction, hg]
      rfl
    | skip =>
      rw [issue_of_skip (s := { s with inputs := rest }) hg, atomicTransaction, hg]
      rfl
    | pass => simp [consumesRx, ht, hg] at h

/-- The burst a transaction sends; none for READ_SAMPLE. -/
def burstOf (t : Transaction) : Bytes :=
  match cmdOf t with
  | none => []
  | some c => encodeFrame c (reqPayload t)

/-- The state in which a transaction that was issued waits for its answer. -/
def awaiting (t : Transaction) (s : State) : State :=
  { s with inflight := some t, tx := if burstOf t = [] then s.tx else s.tx ++ [burstOf t] }

theorem issue_eq_awaiting {t : Transaction} {s : State} (h : guardOf Config.stopWhenIdle t s.session = .pass) :
    issue t s = awaiting t s := by
  rw [issue_of_pass h, send, awaiting, burstOf]
  cases cmdOf t with
  | none => rfl
  | some c =>
    have hne : encodeFrame c (reqPayload t) ≠ [] := List.ne_nil_of_length_pos (by simp)
    simp [hne, emit, setInflight]

theorem exec_eq_awaiting {i : Instr} {t : Transaction} {s : State} (ht : transactionOf i = some t)
    (hi : s.inflight = none) (hg : guardOf Config.stopWhenIdle t s.session = .pass) :
    exec i s = .next (awaiting t s) := by
  rw [exec_of_transactionOf ht hi, issue_eq_awaiting hg]

theorem atomicTransaction_of_ok {p : StopWhenIdle} {t : Transaction} {st : SessionState} {ev : RxEvent} {v : Value}
    (hg : guardOf p t st = .pass) (hr : completeResult t ev = .ok v) :
    atomicTransaction p t st ev = ⟨nextState t st, burstOf t, .ok v⟩ := by
  rw [atomicTransaction, hg]
  simp only [hr]
  rfl

theorem atomicTransaction_of_fault {p : StopWhenIdle} {t : Transaction} {st : SessionState} {ev : RxEvent}
    {f : Failure} (hg : guardOf p t st = .pass) (hr : completeResult t ev = .fault f) :
    atomicTransaction p t st ev = ⟨st, burstOf t, .fault f⟩ := by
  rw [atomicTransaction, hg]
  simp only [hr]
  rfl

/-- Where the guard passes, COMPLETE does the rest of the one function. -/
theorem complete_awaiting {s : State} {t : Transaction} (ev : RxEvent) (rest : List HostEvent)
    (hi : s.inflight = none) (hg : guardOf Config.stopWhenIdle t s.session = .pass) :
    complete t ev (awaiting t { s with inputs := rest }) =
      afterAtomic s rest (atomicTransaction Config.stopWhenIdle t s.session ev) := by
  obtain ⟨v, hr, hs⟩ | ⟨f, hr, hs⟩ := complete_cases t ev (awaiting t { s with inputs := rest })
  · rw [hs, atomicTransaction_of_ok hg hr, afterAtomic, hi]
    rfl
  · rw [hs, atomicTransaction_of_fault hg hr, afterAtomic, hi]
    rfl

theorem presentRx_of_mayBePresented {s : State} {t : Transaction} {ev : RxEvent} (hi : s.inflight = some t)
    (h : ev ≠ .timeout ∨ Config.hasTimeout = true) : presentRx ev s = .next (complete t ev s) := by
  obtain ⟨u, hu⟩ := (presentRx_goesOn_iff ev s).2 ⟨by simp [hi], fun hev => h.resolve_left (not_not.2 hev)⟩
  rw [hu, complete_of_presentRx hi hu]

/-- Where an operation consumes the RX event, it is a transaction whose guard passes. -/
theorem transaction_of_consumesRx {p : StopWhenIdle} {st : SessionState} {i : Instr} (h : consumesRx p st i = true) :
    ∃ t, transactionOf i = some t ∧ guardOf p t st = .pass := by
  unfold consumesRx at h
  split at h
  next => cases h
  next t ht => exact ⟨t, ht, by simpa using h⟩

/-- Settles O60: an operation without an RX event in one step, a transaction whose guard passes in two. -/
theorem twoEventsAreTheOneFunction : Obligations.TwoEventsAreTheOneFunction := by
  intro s i ev rest hi hp
  have hrequest : ∀ tail, step { s with inputs := .request (encodeRequest i) :: tail } =
      exec i { s with inputs := tail } := fun _ => step_of_encodeRequest (nothingToTake_of_none hp) rfl
  refine ⟨fun h => (hrequest rest).trans (exec_eq_afterAtomic ev rest hi h), fun h hev => ?_⟩
  obtain ⟨t, ht, hg⟩ := transaction_of_consumesRx h
  have hanswer : step (awaiting t { s with inputs := .rx ev :: rest }) =
      presentRx ev (awaiting t { s with inputs := rest }) := step_of_rx (nothingToTake_of_none hp) rfl
  refine ⟨awaiting t { s with inputs := .rx ev :: rest }, ?_, rfl, ht.symm, rfl, ?_⟩
  · exact (hrequest _).trans (exec_eq_awaiting ht hi hg)
  · rw [hanswer, presentRx_of_mayBePresented rfl hev, complete_awaiting ev rest hi hg, atomicExec_of_transactionOf ht,
      afterAtomic]

end Sys2Proof.Machine
end
